-- ==== Sys2Proof/Word.lean ====
section
/-! DEFINITION. The word types of the CHIP-8 core (spec/00_scope.md R8, spec/30_encoding.md R71, R72). All values are
unsigned (R10). -/

namespace Sys2Proof

/-- A memory byte, a general register, a timer, an immediate `kk`: 8 bits (R8, R50, R72). -/
abbrev Byte := BitVec 8

/-- An instruction word, the program counter, the index register, a stack slot: 16 bits (R8, R70). -/
abbrev Word := BitVec 16

/-- A register field `x` or `y`, which selects one of V0..VF: 4 bits (R71). -/
abbrev RegIndex := BitVec 4

/-- A nibble: the major opcode `o`, the sprite height or sub-opcode `n` (R71). -/
abbrev Nibble := BitVec 4

/-- The address immediate `nnn`: 12 bits (R71, R72). -/
abbrev Addr := BitVec 12

/-- A key symbol of the hex keypad, `k` having the value `k` in 0x0..0xF (R180). -/
abbrev Key := BitVec 4

end Sys2Proof
end

