-- ==== Sys2Proof/Config.lean ====
section
/-! DEFINITION. What an implementation fixes and what the spec leaves open: the font parameters (R8, R9, R52, R53), and
the inputs of a step, which the environment supplies (R38, R180, R206, R215). -/

namespace Sys2Proof

/-- The font parameters `FONT_BASE` and `FONT_DATA` (R8, R9, R52, R53). `base` is in 0..0x1B0, so that the 80 bytes
end at or below 0x200 (R52). Glyph `d` is the five bytes from index `5 * d`. -/
structure Font where
  base : Fin 433
  data : Vector Byte 80
deriving DecidableEq, Repr, Inhabited

/-- What can land between two steps and touches the TimerPair or `run` (R205, R206, R217): the host's calls `start()`
(R208) and `stop()` (R209), the scheduler agent's `tick` (R207), and `settle`, the scheduler's second transition out of
`Stopping`, which ends the cycle with no tick (R209). -/
inductive Event where
  | start
  | stop
  | tick
  | settle
deriving DecidableEq, Repr, Inhabited

/-- The inputs of one step: the events that land since the step before it, in order (R206), then the key, none or one
symbol (R180), and the random byte (R131, R215). -/
structure StepInput where
  events : List Event
  key : Option Key
  rand : Byte
deriving DecidableEq, Repr, Inhabited

/-- FREE VALUE (log entry 1; U8, D4, D5): the font of the implementation. It has no body: `FONT_BASE` is OPEN and
`FONT_DATA` is a parameter, so nothing can be proved of its value but the bound its type carries. -/
opaque Config.font : Font

/-- FREE VALUE (log entry 2; U2, U5, U7, D18, D19, D20): the `n`-th input that the environment supplies to a step for
which State's queue holds none. It has no body: any events, any key and any random byte. -/
opaque Config.freeInput : Nat → StepInput

end Sys2Proof
end

