-- ==== Sys2Proof/Machine/Layout.lean ====
section
/-! DEFINITION. The fixed parameters of the core (spec/00_scope.md R8) and the contents of memory that no program has
written (spec/20_memory.md R51, R53). -/

namespace Sys2Proof.Machine

/-- `MEM_SIZE`: addresses 0x000..0xFFF (R8, R50; 90_conflicts.md C1). -/
def memSize : Nat := 4096

/-- `PROG_BASE`: where the program image is copied and where execution starts (R8, R51, R242). -/
def progBase : Nat := 0x200

/-- `GLYPH_BYTES`: the bytes of one font glyph (R8). -/
def glyphBytes : Nat := 5

/-- `FONT_GLYPHS * GLYPH_BYTES`: the bytes of the font (R8, R51). -/
def fontLen : Nat := 80

/-- What a byte of memory holds after construction with an empty program: `FONT_DATA` in the font region and 0x00
everywhere else (R51, R240; log entry 15). The test against `progBase` comes first because the font lies below it (R52). -/
def unlistedByte (font : Font) (a : Nat) : Byte :=
  if progBase ≤ a then 0
  else if font.base.val ≤ a then font.data.toList.getD (a - font.base.val) 0
  else 0

/-- The reference configuration of spec/95_test_vectors.md: `FONT_BASE = 0x000` (R9) and the default glyphs of R53.
PRESUMED by the spec ("from general knowledge, not in source", G3): only the model's own tests use it (log entry 1). -/
def referenceFont : Font where
  base := 0
  data := #v[
    0xF0, 0x90, 0x90, 0x90, 0xF0,  0x20, 0x60, 0x20, 0x20, 0x70,
    0xF0, 0x10, 0xF0, 0x80, 0xF0,  0xF0, 0x10, 0xF0, 0x10, 0xF0,
    0x90, 0x90, 0xF0, 0x10, 0x10,  0xF0, 0x80, 0xF0, 0x10, 0xF0,
    0xF0, 0x80, 0xF0, 0x90, 0xF0,  0xF0, 0x10, 0x20, 0x40, 0x40,
    0xF0, 0x90, 0xF0, 0x90, 0xF0,  0xF0, 0x90, 0xF0, 0x10, 0xF0,
    0xF0, 0x90, 0xF0, 0x90, 0x90,  0xE0, 0x90, 0xE0, 0x90, 0xE0,
    0xF0, 0x80, 0x80, 0x80, 0xF0,  0xE0, 0x90, 0x90, 0x90, 0xE0,
    0xF0, 0x80, 0xF0, 0x80, 0xF0,  0xF0, 0x80, 0xF0, 0x80, 0x80]

end Sys2Proof.Machine
end

