-- ==== Sys2Proof/Syntax.lean ====
section
/-! DEFINITION. The instructions: one constructor per row of spec/opcode_table.json, in the table's order
(spec/30_encoding.md R75). The operands have the widths of R71, and every value of a field is legal (R79). -/

namespace Sys2Proof

/-- An instruction of the CHIP-8 core. Each constructor names the table's pattern and the rule of its meaning. -/
inductive Instr where
  /-- `00E0`, R160. -/
  | cls
  /-- `00EE`, R100. -/
  | ret
  /-- `1nnn`, R101. -/
  | jp (nnn : Addr)
  /-- `2nnn`, R102. -/
  | call (nnn : Addr)
  /-- `3xkk`, R103. -/
  | seImm (x : RegIndex) (kk : Byte)
  /-- `4xkk`, R104. -/
  | sneImm (x : RegIndex) (kk : Byte)
  /-- `5xy0`, R105. -/
  | seReg (x y : RegIndex)
  /-- `6xkk`, R120. -/
  | ldImm (x : RegIndex) (kk : Byte)
  /-- `7xkk`, R121. -/
  | addImm (x : RegIndex) (kk : Byte)
  /-- `8xy0`, R122. -/
  | ldReg (x y : RegIndex)
  /-- `8xy1`, R123. -/
  | or (x y : RegIndex)
  /-- `8xy2`, R124. -/
  | and (x y : RegIndex)
  /-- `8xy3`, R125. -/
  | xor (x y : RegIndex)
  /-- `8xy4`, R126. -/
  | addReg (x y : RegIndex)
  /-- `8xy5`, R127. -/
  | sub (x y : RegIndex)
  /-- `8xy6`, R128. The field `y` is encoded and not read (R79). -/
  | shr (x y : RegIndex)
  /-- `8xy7`, R129. -/
  | subn (x y : RegIndex)
  /-- `8xyE`, R130. The field `y` is encoded and not read (R79). -/
  | shl (x y : RegIndex)
  /-- `9xy0`, R106. -/
  | sneReg (x y : RegIndex)
  /-- `Annn`, R140. -/
  | ldI (nnn : Addr)
  /-- `Bnnn`, R107. -/
  | jpV0 (nnn : Addr)
  /-- `Cxkk`, R131. -/
  | rnd (x : RegIndex) (kk : Byte)
  /-- `Dxyn`, R162. -/
  | drw (x y : RegIndex) (n : Nibble)
  /-- `Ex9E`, R181. -/
  | skp (x : RegIndex)
  /-- `ExA1`, R182. -/
  | sknp (x : RegIndex)
  /-- `Fx07`, R183. -/
  | ldVxDt (x : RegIndex)
  /-- `Fx0A`, R184. -/
  | ldVxK (x : RegIndex)
  /-- `Fx15`, R185. -/
  | ldDtVx (x : RegIndex)
  /-- `Fx18`, R186. -/
  | ldStVx (x : RegIndex)
  /-- `Fx1E`, R141. -/
  | addIVx (x : RegIndex)
  /-- `Fx29`, R142. -/
  | ldFVx (x : RegIndex)
  /-- `Fx33`, R143. -/
  | ldBVx (x : RegIndex)
  /-- `Fx55`, R144. -/
  | ldMemVx (x : RegIndex)
  /-- `Fx65`, R145. -/
  | ldVxMem (x : RegIndex)
deriving DecidableEq, Repr

end Sys2Proof
end

