-- ==== Sys2Proof/WellFormed.lean ====
section
/-! DEFINITION. What is well formed: every instruction is, because the field types of Syntax.lean carry the widths of R71
and no field value makes a legal row illegal (spec/30_encoding.md R79). A program image is well formed when it fits
(spec/20_memory.md R56, spec/70_reset_and_hazards.md R241). -/

namespace Sys2Proof

/-- "No field value makes a legal row illegal: every `x`, every `y`, every `kk`, every `nnn`, and every `n` of `Dxyn`, 0
included" (R79): the check on an instruction's operands refuses none. -/
def Instr.wellFormed (_ : Instr) : Bool := true

/-- The check of construction: the image ends inside the address space, `0x200 + len <= MEM_SIZE` (R56, R241). -/
def imageFits (program : List Byte) : Bool :=
  decide (Machine.progBase + program.length ≤ Machine.memSize)

end Sys2Proof
end

