-- ==== Sys2Proof/Decode.lean ====
section
/-! DEFINITION. The encoding (spec/30_encoding.md): fields, formats, the rows of the opcode table, the decoder, total on
words and on bytes, and the encoder, written from the same tables. -/

namespace Sys2Proof

/-- Why bytes are no instruction: the word matches no row of R75 (R78), or there are fewer than two bytes. -/
inductive DecodeError where
  | illegalOpcode (op : Word)
  | truncated
deriving DecidableEq, Repr

/-- Field `o`, `op[15:12]` (R71). -/
def fieldO (op : Word) : Nibble := op.extractLsb' 12 4

/-- Field `x`, `op[11:8]` (R71). -/
def fieldX (op : Word) : RegIndex := op.extractLsb' 8 4

/-- Field `y`, `op[7:4]` (R71). -/
def fieldY (op : Word) : RegIndex := op.extractLsb' 4 4

/-- Field `n`, `op[3:0]` (R71). -/
def fieldN (op : Word) : Nibble := op.extractLsb' 0 4

/-- Field `kk`, `op[7:0]` (R71). -/
def fieldKK (op : Word) : Byte := op.extractLsb' 0 8

/-- Field `nnn`, `op[11:0]` (R71). -/
def fieldNNN (op : Word) : Addr := op.extractLsb' 0 12

/-- Format `NNN`: `oooo nnnn nnnn nnnn` (R73). -/
def packNNN (o : Nibble) (nnn : Addr) : Word := o ++ nnn

/-- Formats `XKK` and `X` (there `kk` is the fixed sub-opcode): `oooo xxxx kkkk kkkk` (R73). -/
def packXKK (o : Nibble) (x : RegIndex) (kk : Byte) : Word := o ++ (x ++ kk : BitVec 12)

/-- Formats `XYN` and `XY` (there `n` is the fixed sub-opcode): `oooo xxxx yyyy nnnn` (R73). -/
def packXYN (o : Nibble) (x y : RegIndex) (n : Nibble) : Word := o ++ (x ++ (y ++ n : BitVec 8) : BitVec 12)

/-- The instruction of the group `o = 8`, selected by `n` (R75, R76). -/
def decodeAlu (op : Word) : Except DecodeError Instr :=
  match (fieldN op).toNat with
  | 0x0 => .ok (.ldReg (fieldX op) (fieldY op))
  | 0x1 => .ok (.or (fieldX op) (fieldY op))
  | 0x2 => .ok (.and (fieldX op) (fieldY op))
  | 0x3 => .ok (.xor (fieldX op) (fieldY op))
  | 0x4 => .ok (.addReg (fieldX op) (fieldY op))
  | 0x5 => .ok (.sub (fieldX op) (fieldY op))
  | 0x6 => .ok (.shr (fieldX op) (fieldY op))
  | 0x7 => .ok (.subn (fieldX op) (fieldY op))
  | 0xE => .ok (.shl (fieldX op) (fieldY op))
  | _ => .error (.illegalOpcode op)

/-- The instruction of the group `o = F`, selected by `kk` (R75, R76). -/
def decodeMisc (op : Word) : Except DecodeError Instr :=
  match (fieldKK op).toNat with
  | 0x07 => .ok (.ldVxDt (fieldX op))
  | 0x0A => .ok (.ldVxK (fieldX op))
  | 0x15 => .ok (.ldDtVx (fieldX op))
  | 0x18 => .ok (.ldStVx (fieldX op))
  | 0x1E => .ok (.addIVx (fieldX op))
  | 0x29 => .ok (.ldFVx (fieldX op))
  | 0x33 => .ok (.ldBVx (fieldX op))
  | 0x55 => .ok (.ldMemVx (fieldX op))
  | 0x65 => .ok (.ldVxMem (fieldX op))
  | _ => .error (.illegalOpcode op)

/-- `Decode(op)` (R75), by the opcode map of R76: the instruction whose row the word matches, or the refusal
`illegalOpcode` (R78). -/
def decodeWord (op : Word) : Except DecodeError Instr :=
  match (fieldO op).toNat with
  | 0x0 =>
    if op = 0x00E0#16 then .ok .cls
    else if op = 0x00EE#16 then .ok .ret
    else .error (.illegalOpcode op)
  | 0x1 => .ok (.jp (fieldNNN op))
  | 0x2 => .ok (.call (fieldNNN op))
  | 0x3 => .ok (.seImm (fieldX op) (fieldKK op))
  | 0x4 => .ok (.sneImm (fieldX op) (fieldKK op))
  | 0x5 =>
    if fieldN op = 0 then .ok (.seReg (fieldX op) (fieldY op)) else .error (.illegalOpcode op)
  | 0x6 => .ok (.ldImm (fieldX op) (fieldKK op))
  | 0x7 => .ok (.addImm (fieldX op) (fieldKK op))
  | 0x8 => decodeAlu op
  | 0x9 =>
    if fieldN op = 0 then .ok (.sneReg (fieldX op) (fieldY op)) else .error (.illegalOpcode op)
  | 0xA => .ok (.ldI (fieldNNN op))
  | 0xB => .ok (.jpV0 (fieldNNN op))
  | 0xC => .ok (.rnd (fieldX op) (fieldKK op))
  | 0xD => .ok (.drw (fieldX op) (fieldY op) (fieldN op))
  | 0xE =>
    if fieldKK op = 0x9E#8 then .ok (.skp (fieldX op))
    else if fieldKK op = 0xA1#8 then .ok (.sknp (fieldX op))
    else .error (.illegalOpcode op)
  | _ => decodeMisc op

/-- Two bytes make a word, the first being the high byte (R57). -/
def wordOfBytes (hi lo : Byte) : Word := hi ++ lo

/-- The high byte of a word, stored at the lower address (R57). -/
def highByte (op : Word) : Byte := op.extractLsb' 8 8

/-- The low byte of a word, stored at the higher address (R57). -/
def lowByte (op : Word) : Byte := op.extractLsb' 0 8

/-- The decoder on bytes: every instruction is two bytes (R70, R81), so it answers the instruction of the first two and
the rest of the list. -/
def decode : List Byte → Except DecodeError (Instr × List Byte)
  | hi :: lo :: rest =>
    match decodeWord (wordOfBytes hi lo) with
    | .ok i => .ok (i, rest)
    | .error e => .error e
  | _ => .error .truncated

/-- The word of an instruction, from the formats of R73 and the fixed bits of R75. -/
def encode : Instr → Word
  | .cls => 0x00E0
  | .ret => 0x00EE
  | .jp nnn => packNNN 0x1 nnn
  | .call nnn => packNNN 0x2 nnn
  | .seImm x kk => packXKK 0x3 x kk
  | .sneImm x kk => packXKK 0x4 x kk
  | .seReg x y => packXYN 0x5 x y 0x0
  | .ldImm x kk => packXKK 0x6 x kk
  | .addImm x kk => packXKK 0x7 x kk
  | .ldReg x y => packXYN 0x8 x y 0x0
  | .or x y => packXYN 0x8 x y 0x1
  | .and x y => packXYN 0x8 x y 0x2
  | .xor x y => packXYN 0x8 x y 0x3
  | .addReg x y => packXYN 0x8 x y 0x4
  | .sub x y => packXYN 0x8 x y 0x5
  | .shr x y => packXYN 0x8 x y 0x6
  | .subn x y => packXYN 0x8 x y 0x7
  | .shl x y => packXYN 0x8 x y 0xE
  | .sneReg x y => packXYN 0x9 x y 0x0
  | .ldI nnn => packNNN 0xA nnn
  | .jpV0 nnn => packNNN 0xB nnn
  | .rnd x kk => packXKK 0xC x kk
  | .drw x y n => packXYN 0xD x y n
  | .skp x => packXKK 0xE x 0x9E
  | .sknp x => packXKK 0xE x 0xA1
  | .ldVxDt x => packXKK 0xF x 0x07
  | .ldVxK x => packXKK 0xF x 0x0A
  | .ldDtVx x => packXKK 0xF x 0x15
  | .ldStVx x => packXKK 0xF x 0x18
  | .addIVx x => packXKK 0xF x 0x1E
  | .ldFVx x => packXKK 0xF x 0x29
  | .ldBVx x => packXKK 0xF x 0x33
  | .ldMemVx x => packXKK 0xF x 0x55
  | .ldVxMem x => packXKK 0xF x 0x65

/-- The two bytes of an instruction in memory order, high byte first (R57, R70). -/
def encodeBytes (i : Instr) : List Byte := [highByte (encode i), lowByte (encode i)]

/-- A row of the table of R75: the table's mnemonic (R86) and the row's match and mask. -/
structure OpcodeRow where
  mnemonic : String
  value : Word
  mask : Word
deriving DecidableEq, Repr

/-- A word matches a row when `(op & mask) == match` (R75). -/
def OpcodeRow.fits (row : OpcodeRow) (op : Word) : Bool := decide (op &&& row.mask = row.value)

/-- The rows of R75 with major nibble 0 to 7. -/
def opcodeRowsLow : List OpcodeRow := [
  ⟨"CLS", 0x00E0, 0xFFFF⟩, ⟨"RET", 0x00EE, 0xFFFF⟩,
  ⟨"JP", 0x1000, 0xF000⟩, ⟨"CALL", 0x2000, 0xF000⟩,
  ⟨"SE_IMM", 0x3000, 0xF000⟩, ⟨"SNE_IMM", 0x4000, 0xF000⟩,
  ⟨"SE_REG", 0x5000, 0xF00F⟩,
  ⟨"LD_IMM", 0x6000, 0xF000⟩, ⟨"ADD_IMM", 0x7000, 0xF000⟩]

/-- The rows of R75 with major nibble 8 (R133). -/
def opcodeRowsAlu : List OpcodeRow := [
  ⟨"LD_REG", 0x8000, 0xF00F⟩, ⟨"OR", 0x8001, 0xF00F⟩, ⟨"AND", 0x8002, 0xF00F⟩,
  ⟨"XOR", 0x8003, 0xF00F⟩, ⟨"ADD_REG", 0x8004, 0xF00F⟩, ⟨"SUB", 0x8005, 0xF00F⟩,
  ⟨"SHR", 0x8006, 0xF00F⟩, ⟨"SUBN", 0x8007, 0xF00F⟩, ⟨"SHL", 0x800E, 0xF00F⟩]

/-- The rows of R75 with major nibble 9 to F. -/
def opcodeRowsHigh : List OpcodeRow := [
  ⟨"SNE_REG", 0x9000, 0xF00F⟩, ⟨"LD_I", 0xA000, 0xF000⟩, ⟨"JP_V0", 0xB000, 0xF000⟩,
  ⟨"RND", 0xC000, 0xF000⟩, ⟨"DRW", 0xD000, 0xF000⟩,
  ⟨"SKP", 0xE09E, 0xF0FF⟩, ⟨"SKNP", 0xE0A1, 0xF0FF⟩,
  ⟨"LD_VX_DT", 0xF007, 0xF0FF⟩, ⟨"LD_VX_K", 0xF00A, 0xF0FF⟩,
  ⟨"LD_DT_VX", 0xF015, 0xF0FF⟩, ⟨"LD_ST_VX", 0xF018, 0xF0FF⟩,
  ⟨"ADD_I_VX", 0xF01E, 0xF0FF⟩, ⟨"LD_F_VX", 0xF029, 0xF0FF⟩, ⟨"LD_B_VX", 0xF033, 0xF0FF⟩,
  ⟨"LD_MEM_VX", 0xF055, 0xF0FF⟩, ⟨"LD_VX_MEM", 0xF065, 0xF0FF⟩]

/-- The opcode table (R75), in the table's order. It is no part of the decoder: statements hold the decoder and the encoder
against it. -/
def opcodeRows : List OpcodeRow := opcodeRowsLow ++ opcodeRowsAlu ++ opcodeRowsHigh

/-- The table's mnemonic of an instruction (R86). -/
def Instr.mnemonic : Instr → String
  | .cls => "CLS" | .ret => "RET" | .jp _ => "JP" | .call _ => "CALL"
  | .seImm _ _ => "SE_IMM" | .sneImm _ _ => "SNE_IMM" | .seReg _ _ => "SE_REG"
  | .ldImm _ _ => "LD_IMM" | .addImm _ _ => "ADD_IMM"
  | .ldReg _ _ => "LD_REG" | .or _ _ => "OR" | .and _ _ => "AND" | .xor _ _ => "XOR"
  | .addReg _ _ => "ADD_REG" | .sub _ _ => "SUB" | .shr _ _ => "SHR" | .subn _ _ => "SUBN" | .shl _ _ => "SHL"
  | .sneReg _ _ => "SNE_REG" | .ldI _ => "LD_I" | .jpV0 _ => "JP_V0" | .rnd _ _ => "RND" | .drw _ _ _ => "DRW"
  | .skp _ => "SKP" | .sknp _ => "SKNP" | .ldVxDt _ => "LD_VX_DT" | .ldVxK _ => "LD_VX_K"
  | .ldDtVx _ => "LD_DT_VX" | .ldStVx _ => "LD_ST_VX" | .addIVx _ => "ADD_I_VX" | .ldFVx _ => "LD_F_VX"
  | .ldBVx _ => "LD_B_VX" | .ldMemVx _ => "LD_MEM_VX" | .ldVxMem _ => "LD_VX_MEM"

/-- The instruction the decoder reads from the word `w` of `nbits` bits (16 for every row; a shorter row would be padded
with zeros above, which `BitVec.ofNat` does), laid out in memory order and given to the decoder on bytes. -/
def decodeTableWord (nbits w : Nat) : Option Instr :=
  let op : Word := BitVec.ofNat 16 (w % 2 ^ nbits)
  match decode [highByte op, lowByte op] with
  | .ok (i, _) => some i
  | .error _ => none

end Sys2Proof
end

