-- ==== Sys2Proof/Machine/State.lean ====
section
/-! DEFINITION. The state of the core (spec/10_state.md R20 to R39), its value after construction with an empty program
(R37), and the reasons a step can stop (spec/60_exceptions.md R201). -/

namespace Sys2Proof.Machine

/-- The scheduler state `run` (R32). -/
inductive RunState where
  | stopped
  | running
  | stopping
deriving DecidableEq, Repr

/-- The TimerPair and the scheduler state: all that the two agents share and all that the host's `start()` and `stop()`
touch (R31, R32, R205). -/
structure Timers where
  /-- `DT`, the delay timer. -/
  dt : Byte
  /-- `ST`, the sound timer. -/
  st : Byte
  /-- `run`. -/
  run : RunState
deriving DecidableEq, Repr

/-- The frame buffer: `FB[c][r]`, 64 columns of 32 one-bit pixels (R33). -/
abbrev Frame := Vector (Vector Bool 32) 64

/-- Memory: the bytes that differ from the construction value `unlistedByte`, by strictly rising address. -/
abbrev Memory := List Host.Cell

/-- The architectural state (R20 to R37), with the fields of the MODEL's own at the end. -/
structure State where
  /-- `V[0]`..`V[15]` (R20); `V[15]` is VF (R21). -/
  v : Vector Byte 16
  /-- The index register `I` (R25). -/
  i : Word
  /-- The program counter (R26). -/
  pc : Word
  /-- The call stack slots `S[0]`..`S[15]` (R28, R30). -/
  stack : Vector Word 16
  /-- The number of entries on the call stack, `depth = 15 - SP`, 0..16 (R29; log entry 5). -/
  depth : Fin 17
  /-- `DT`, `ST` and `run` (R31, R32). -/
  timers : Timers
  /-- The frame buffer `FB` (R33). -/
  fb : Frame
  /-- The memory `M` (R34, R50). -/
  mem : Memory
  /-- The MODEL's own field: `FONT_BASE` and `FONT_DATA`, the configuration arguments of R9. No transition changes it
  (log entry 1). -/
  font : Font
  /-- The MODEL's own field: the inputs of the coming steps, as far as they are known, the next step's first (log entry 2). -/
  inputs : List StepInput
  /-- The MODEL's own field: how many free inputs have been drawn (log entry 2). -/
  draws : Nat
deriving DecidableEq, Repr

/-- The state after construction with an empty program, for the font `font` (R37, R240). -/
def State.fresh (font : Font) : State where
  v := Vector.replicate 16 0
  i := 0
  pc := BitVec.ofNat 16 progBase
  stack := Vector.replicate 16 0
  depth := 0
  timers := { dt := 0, st := 0, run := .stopped }
  fb := Vector.replicate 64 (Vector.replicate 32 false)
  mem := []
  font := font
  inputs := []
  draws := 0

/-- The machine right after reset: construction is the only reset (R37, R240). The font is the opaque `Config.font`, and no
input of a step is fixed (log entries 1 and 2). -/
def State.reset : State := State.fresh Config.font

/-- The error kinds (R201). An error is the outcome of a step, handed to the host; it ends the run of a model (R203). All are
SAFE: the spec itself stops the step there and commits nothing (R202). The payload is a diagnostic, not architectural
(D25; log entry 7). -/
inductive Fault where
  /-- Code 0: no row of the opcode table matches the word. Raised by decode in every step (R75, R78). SAFE. -/
  | illegalOpcode (op : Word)
  /-- Code 1: a call with all 16 slots in use. Raised by CALL (R102). SAFE. -/
  | stackOverflow
  /-- Code 2: a return with an empty stack. Raised by RET (R100). SAFE. -/
  | stackUnderflow
  /-- Code 3: an access outside memory, or a sum that does not fit I. Raised by the fetch (R74), DRW (R162), LD_B_VX (R143),
  LD_MEM_VX (R144), LD_VX_MEM (R145), ADD_I_VX (R141) and construction (R241). SAFE. -/
  | outOfBounds (a : Nat)
deriving DecidableEq, Repr

/-- What the model has no meaning for. -/
inductive Refusal where
  /-- An instruction with no meaning yet: raised by no arm of this model. SAFE: nothing is claimed of it. -/
  | notModelled (mnemonic : String)
deriving DecidableEq, Repr

/-- The outcome of a step or of an instruction's execute phase. -/
abbrev Result := Host.Outcome State Fault Refusal

end Sys2Proof.Machine
end

