-- ==== Sys2Proof/Machine/Ops.lean ====
section
/-! DEFINITION. The named operations over registers, memory, the call stack and the inputs; raising an error and committing
a step (spec/00_scope.md R12, R13, R14); the fetch (spec/30_encoding.md R74). -/

namespace Sys2Proof.Machine

/-! ### Errors and the commit -/

/-- `raise E(info)`: it ends the pseudocode, discards the working copy and makes `Err(E)` the outcome of the step (R14,
R200). It saves nothing and goes to no handler: the core has no trap entry (R212). -/
def raise (f : Fault) : Result := .fault f

/-- The end of an instruction's pseudocode: the working copy becomes the new state, or the raised error is the outcome and
nothing is committed (R14, R202). -/
def commit : Except Fault State → Result
  | .ok t => .next t
  | .error f => raise f

/-- The code of an error kind (R201). -/
def Fault.code : Fault → Nat
  | .illegalOpcode _ => 0
  | .stackOverflow => 1
  | .stackUnderflow => 2
  | .outOfBounds _ => 3

/-! ### Registers -/

/-- `V[x]` (R12, R20). -/
def State.reg (s : State) (x : RegIndex) : Byte := s.v[x.toNat]'x.isLt

/-- `V[x] <- b` (R12, R20). -/
def State.setReg (s : State) (x : RegIndex) (b : Byte) : State := { s with v := s.v.set x.toNat b x.isLt }

/-- The register index of VF, `V[15]` (R21). -/
def flagReg : RegIndex := 0xF

/-- `VF` (R12). -/
def State.vf (s : State) : Byte := s.reg flagReg

/-- The result and then the flag, VF last (R22, D7): with `x = F` VF ends holding the flag. -/
def State.setRegFlag (s : State) (x : RegIndex) (result flag : Byte) : State :=
  (s.setReg x result).setReg flagReg flag

/-- `pc <- w` (R12). -/
def State.setPc (s : State) (w : Word) : State := { s with pc := w }

/-- `I <- w` (R12). -/
def State.setI (s : State) (w : Word) : State := { s with i := w }

/-- `DT <- b` (R12, R31). -/
def State.setDt (s : State) (b : Byte) : State := { s with timers := { s.timers with dt := b } }

/-- `ST <- b` (R12, R31). -/
def State.setSt (s : State) (b : Byte) : State := { s with timers := { s.timers with st := b } }

/-- The frame buffer replaced as a whole. -/
def State.setFb (s : State) (fb : Frame) : State := { s with fb := fb }

/-- `pc <- pc + 2`: the advance of the fetch (R74) and a skip (R17, R109). The sum never wraps in a run (R26; log entry 6). -/
def State.advancePc (s : State) : State := s.setPc (s.pc + 2)

/-- A skip when `b` holds, nothing otherwise (R109). -/
def State.skipIf (s : State) (b : Bool) : State := if b then s.advancePc else s

/-! ### The inputs of the step -/

/-- The input of the coming step: the head of the queue, or a free value (R38, R215; log entry 2). -/
def State.input (s : State) : StepInput :=
  match s.inputs with
  | inp :: _ => inp
  | [] => Config.freeInput s.draws

/-- The step's key input (R180). -/
def State.key (s : State) : Option Key := s.input.key

/-- The step's random byte (R131, R215). -/
def State.rand (s : State) : Byte := s.input.rand

/-- The step's input is used up: it is not latched (R38, R180). -/
def State.consumeInput (s : State) : State :=
  match s.inputs with
  | _ :: rest => { s with inputs := rest }
  | [] => { s with draws := s.draws + 1 }

/-! ### Memory -/

/-- The byte listed at `a`, if one is. -/
def lookup : Memory → Nat → Option Byte
  | [], _ => none
  | (b, w) :: m, a => if b = a then some w else lookup m a

/-- `M[a]`: the listed byte, or the construction value. -/
def readByte (font : Font) (m : Memory) (a : Nat) : Byte := (lookup m a).getD (unlistedByte font a)

/-- The memory with nothing listed at `a`. -/
def dropAt (a : Nat) : Memory → Memory
  | [] => []
  | (b, w) :: m => if b = a then dropAt a m else (b, w) :: dropAt a m

/-- The byte `v` listed at `a`, in address order, in a memory that lists nothing there. -/
def insertAt (a : Nat) (v : Byte) : Memory → Memory
  | [] => [(a, v)]
  | (b, w) :: m => if a < b then (a, v) :: (b, w) :: m else (b, w) :: insertAt a v m

/-- `M[a] <- v` in the canonical form, `d` being what an unlisted `a` reads as: writing `d` removes the entry. -/
def putByte (d : Byte) (a : Nat) (v : Byte) (m : Memory) : Memory :=
  if v = d then dropAt a m else insertAt a v (dropAt a m)

/-- The canonical form from the lower bound `lo` on: addresses strictly rising and inside memory, and no entry equal to what
an unlisted address reads as. -/
def wfFrom (font : Font) : Nat → Memory → Bool
  | _, [] => true
  | lo, (a, w) :: m =>
    decide (lo ≤ a) && decide (a < memSize) && decide (w ≠ unlistedByte font a) && wfFrom font (a + 1) m

/-- The canonical form of a memory. -/
def memWf (font : Font) (m : Memory) : Bool := wfFrom font 0 m

/-- `M[a]` of a state, for any natural `a` (the bounds check is `memRead`'s). -/
def State.byteAt (s : State) (a : Nat) : Byte := readByte s.font s.mem a

/-- `M[a] <- v` of a state (the bounds check is `memWrite`'s). All of memory is writable, the font included (R54). -/
def State.setByte (s : State) (a : Nat) (v : Byte) : State :=
  { s with mem := putByte (unlistedByte s.font a) a v s.mem }

/-- `MemRead(a, 1)` (R13, R55). -/
def State.memRead (s : State) (a : Nat) : Except Fault Byte :=
  if a < memSize then .ok (s.byteAt a) else .error (.outOfBounds a)

/-- `MemWrite(a, 1, v)` (R13, R55). -/
def State.memWrite (s : State) (a : Nat) (v : Byte) : Except Fault State :=
  if a < memSize then .ok (s.setByte a v) else .error (.outOfBounds a)

/-- `MemRead` at `a`, `a + 1`, .., `n` bytes in all: the lowest address outside memory is the one reported (R204). -/
def State.readBytes (s : State) (a : Nat) : Nat → Except Fault (List Byte)
  | 0 => .ok []
  | n + 1 =>
    match s.memRead a with
    | .error f => .error f
    | .ok b =>
      match s.readBytes (a + 1) n with
      | .error f => .error f
      | .ok bs => .ok (b :: bs)

/-- `MemWrite` of the bytes at `a`, `a + 1`, .. on the working copy: where one fails, nothing is committed (R14, R59). -/
def State.writeBytes (s : State) (a : Nat) : List Byte → Except Fault State
  | [] => .ok s
  | b :: bs =>
    match s.memWrite a b with
    | .error f => .error f
    | .ok t => t.writeBytes (a + 1) bs

/-- The bytes stored at `a`, `a + 1`, .. with no check. -/
def State.setBytes (s : State) (a : Nat) : List Byte → State
  | [] => s
  | b :: bs => (s.setByte a b).setBytes (a + 1) bs

/-! ### The call stack -/

/-- `S[j]` (R28). -/
def State.slot (s : State) (j : Fin 16) : Word := s.stack.get j

/-- `SP`, the signed stack pointer -1..15 (R29). -/
def State.sp (s : State) : Int := 15 - (s.depth.val : Int)

/-- `if SP = -1: raise StackOverflow(); S[SP] <- w; SP <- SP - 1` (R102; with `depth`, `S[SP]` is `S[15 - depth]`). -/
def State.push (s : State) (w : Word) : Except Fault State :=
  if h : s.depth.val < 16 then
    .ok { s with
      stack := s.stack.set (15 - s.depth.val) w (by omega)
      depth := ⟨s.depth.val + 1, by omega⟩ }
  else .error .stackOverflow

/-- `if SP = 15: raise StackUnderflow(); SP <- SP + 1; pc <- S[SP]` (R100). The slot is not cleared (R30). -/
def State.pop (s : State) : Except Fault State :=
  if h : 0 < s.depth.val then
    .ok { s with
      pc := s.stack[16 - s.depth.val]'(by omega)
      depth := ⟨s.depth.val - 1, by omega⟩ }
  else .error .stackUnderflow

/-! ### Fetch -/

/-- The fetch of R74: the byte at `pc` is the high byte and the byte at `pc + 1` the low byte; both are checked, `pc` first
(R204). -/
def fetchWord (s : State) : Except Fault Word :=
  match s.memRead s.pc.toNat with
  | .error f => .error f
  | .ok hi =>
    match s.memRead (s.pc.toNat + 1) with
    | .error f => .error f
    | .ok lo => .ok (wordOfBytes hi lo)

/-- `Decode(op)` as a step uses it: `raise IllegalOpcode(op)` when no row matches (R74, R75). -/
def decodeOrRaise (op : Word) : Except Fault Instr :=
  match decodeWord op with
  | .ok i => .ok i
  | .error _ => .error (.illegalOpcode op)

/-- Fetch and decode (R74). -/
def fetchInstr (s : State) : Except Fault Instr :=
  match fetchWord s with
  | .error f => .error f
  | .ok op => decodeOrRaise op

/-- A byte stored at an address, where memory has it: for `withFetchWord`. -/
def State.place (s : State) (a : Nat) (v : Byte) : State := if a < memSize then s.setByte a v else s

/-- The state with the word `op` stored where the next step fetches, high byte first (R57). -/
def State.placeWord (s : State) (op : Word) : State :=
  (s.place s.pc.toNat (highByte op)).place (s.pc.toNat + 1) (lowByte op)

end Sys2Proof.Machine
end

