-- ==== Sys2Proof/Machine/Alu.lean ====
section
/-! DEFINITION. Register loads and arithmetic (spec/41_alu.md). Every operand is read first, then the result is written, then
VF (R22). -/

namespace Sys2Proof.Machine

/-- `6xkk`, load immediate (R120). -/
def execLdImm (x : RegIndex) (kk : Byte) (s : State) : Result := .next (s.setReg x kk)

/-- `7xkk`, add immediate, the carry into VF in every case (R121). -/
def execAddImm (x : RegIndex) (kk : Byte) (s : State) : Result :=
  .next (s.setRegFlag x (addByte (s.reg x) kk) (carryFlag (s.reg x) kk))

/-- `8xy0`, copy (R122). -/
def execLdReg (x y : RegIndex) (s : State) : Result := .next (s.setReg x (s.reg y))

/-- `8xy1`, OR; VF is no flag here (R123, D8). -/
def execOr (x y : RegIndex) (s : State) : Result := .next (s.setReg x (s.reg x ||| s.reg y))

/-- `8xy2`, AND; VF is no flag here (R124, D8). -/
def execAnd (x y : RegIndex) (s : State) : Result := .next (s.setReg x (s.reg x &&& s.reg y))

/-- `8xy3`, XOR; VF is no flag here (R125, D8). -/
def execXor (x y : RegIndex) (s : State) : Result := .next (s.setReg x (s.reg x ^^^ s.reg y))

/-- `8xy4`, add with carry out (R126). -/
def execAddReg (x y : RegIndex) (s : State) : Result :=
  .next (s.setRegFlag x (addByte (s.reg x) (s.reg y)) (carryFlag (s.reg x) (s.reg y)))

/-- `8xy5`, `Vx - Vy`, VF = no borrow (R127). -/
def execSub (x y : RegIndex) (s : State) : Result :=
  .next (s.setRegFlag x (subByte (s.reg x) (s.reg y)) (noBorrowFlag (s.reg x) (s.reg y)))

/-- `8xy6`, shift Vx right by one, VF = the bit shifted out; Vy is not read (R128, D9). -/
def execShr (x _y : RegIndex) (s : State) : Result :=
  .next (s.setRegFlag x (shiftRight1 (s.reg x)) (lowBitFlag (s.reg x)))

/-- `8xy7`, `Vy - Vx`, VF = no borrow (R129). -/
def execSubn (x y : RegIndex) (s : State) : Result :=
  .next (s.setRegFlag x (subByte (s.reg y) (s.reg x)) (noBorrowFlag (s.reg y) (s.reg x)))

/-- `8xyE`, shift Vx left by one, VF = the bit shifted out; Vy is not read (R130, D9). -/
def execShl (x _y : RegIndex) (s : State) : Result :=
  .next (s.setRegFlag x (shiftLeft1 (s.reg x)) (highBitFlag (s.reg x)))

/-- `Cxkk`, the step's random byte masked by `kk` (R131, D20). -/
def execRnd (x : RegIndex) (kk : Byte) (s : State) : Result := .next (s.setReg x (s.rand &&& kk))

end Sys2Proof.Machine
end

