-- ==== Sys2Proof/Machine/Operands.lean ====
section
/-! DEFINITION. The operand forms: zero extension (spec/30_encoding.md R72), the one data addressing mode `I + k`
(spec/42_index_memory.md R146), the register block V0..Vx, the digits of a byte, a glyph's address. -/

namespace Sys2Proof.Machine

/-- `zext_16(nnn)` (R11, R72). -/
def zext16 (nnn : Addr) : Word := nnn.setWidth 16

/-- The address `I` as an unbounded natural: `I + k` never wraps before its check (R13, R55, R146). -/
def State.indexAddr (s : State) : Nat := s.i.toNat

/-- `V[0]`..`V[x]`, `x + 1` bytes (R144). -/
def State.regBlock (s : State) (x : RegIndex) : List Byte := s.v.toList.take (x.toNat + 1)

/-- `V[k] <- b` for the bytes in turn, from `k` on (R145). -/
def State.setRegsFrom (s : State) (k : Nat) : List Byte → State
  | [] => s
  | b :: bs => (s.setReg (BitVec.ofNat 4 k) b).setRegsFrom (k + 1) bs

/-- The decimal digits of a byte: hundreds, tens, ones (R143). -/
def bcdDigits (v : Byte) : List Byte :=
  [BitVec.ofNat 8 (v.toNat / 100), BitVec.ofNat 8 (v.toNat / 10 % 10), BitVec.ofNat 8 (v.toNat % 10)]

/-- `FONT_BASE + 5 * (v & 0x0F)`: the address of the glyph for the low nibble of `v` (R142, D12). -/
def glyphAddr (font : Font) (v : Byte) : Word :=
  BitVec.ofNat 16 (font.base.val + glyphBytes * (v &&& 0x0F).toNat)

/-- The given key equals the value of a register; no key equals none, and no key equals a value above 0x0F (R181, R182). -/
def keyIs (key : Option Key) (v : Byte) : Bool :=
  match key with
  | none => false
  | some k => decide (k.setWidth 8 = v)

end Sys2Proof.Machine
end

