-- ==== Sys2Proof/Machine/Control.lean ====
section
/-! DEFINITION. Control transfer (spec/40_control_flow.md). Each meaning is the execute phase: `pc` already holds the
instruction's address plus 2 (R15, R74). Every target is absolute and unchecked (R108). -/

namespace Sys2Proof.Machine

/-- `00EE`, return (R100). -/
def execRet (s : State) : Result := commit s.pop

/-- `1nnn`, jump (R101). -/
def execJp (nnn : Addr) (s : State) : Result := .next (s.setPc (zext16 nnn))

/-- `2nnn`, call (R102): the pushed value is the address of the next instruction. -/
def execCall (nnn : Addr) (s : State) : Result :=
  match s.push s.pc with
  | .ok t => .next (t.setPc (zext16 nnn))
  | .error f => raise f

/-- `3xkk`, skip if equal (R103). -/
def execSeImm (x : RegIndex) (kk : Byte) (s : State) : Result := .next (s.skipIf (decide (s.reg x = kk)))

/-- `4xkk`, skip if not equal (R104). -/
def execSneImm (x : RegIndex) (kk : Byte) (s : State) : Result := .next (s.skipIf (decide (s.reg x ≠ kk)))

/-- `5xy0`, skip if the registers are equal (R105). -/
def execSeReg (x y : RegIndex) (s : State) : Result := .next (s.skipIf (decide (s.reg x = s.reg y)))

/-- `9xy0`, skip if the registers differ (R106). -/
def execSneReg (x y : RegIndex) (s : State) : Result := .next (s.skipIf (decide (s.reg x ≠ s.reg y)))

/-- `Bnnn`, jump to `V0 + nnn`, at most 0x10FE, not reduced (R107, D13). -/
def execJpV0 (nnn : Addr) (s : State) : Result :=
  .next (s.setPc (BitVec.ofNat 16 ((s.reg 0).toNat + nnn.toNat)))

end Sys2Proof.Machine
end

