-- ==== Sys2Proof/Machine/Display.lean ====
section
/-! DEFINITION. The frame buffer, clear and sprite draw (spec/43_display.md). -/

namespace Sys2Proof.Machine

/-- `FB[c][r]` (R33). -/
def pixel (fb : Frame) (c : Fin 64) (r : Fin 32) : Bool := (fb.get c).get r

/-- `FB[c][r] <- FB[c][r] ^ 1` (R161). -/
def flipPixel (fb : Frame) (c : Fin 64) (r : Fin 32) : Frame :=
  fb.set c.val ((fb.get c).set r.val (!pixel fb c r) r.isLt) c.isLt

/-- The buffer with every pixel unset (R33, R160). -/
def clearFrame : Frame := Vector.replicate 64 (Vector.replicate 32 false)

/-- A column modulo 64 (R161). -/
def wrapCol (c : Nat) : Fin 64 := ⟨c % 64, Nat.mod_lt _ (by decide)⟩

/-- A row modulo 32 (R161). -/
def wrapRow (r : Nat) : Fin 32 := ⟨r % 32, Nat.mod_lt _ (by decide)⟩

/-- The draw in progress: the buffer, and the collision accumulator that lives for one draw only (R39, R161). -/
structure Drawing where
  fb : Frame
  coll : Bool
deriving DecidableEq, Repr

/-- One sprite bit at a pixel: a set bit flips it, and a set pixel that is flipped is a collision (R161). -/
def drawBit (d : Drawing) (c : Fin 64) (r : Fin 32) (bit : Bool) : Drawing :=
  if bit then { fb := flipPixel d.fb c r, coll := d.coll || pixel d.fb c r } else d

/-- One sprite row: column offset `b` takes bit `7 - b`, bit 7 first (R161). -/
def drawRow (d : Drawing) (cx r : Nat) (row : Byte) : Drawing :=
  [0, 1, 2, 3, 4, 5, 6, 7].foldl (fun d b => drawBit d (wrapCol (cx + b)) (wrapRow r) (row.getLsbD (7 - b))) d

/-- The sprite's rows in order, from row `r` on (R161). -/
def drawRows (cx : Nat) : Nat → List Byte → Drawing → Drawing
  | _, [], d => d
  | r, row :: rows, d => drawRows cx (r + 1) rows (drawRow d cx r row)

/-- `Draw(cx, cy, spr)` (R161): the buffer after the draw, and the collision bit. -/
def drawSprite (fb : Frame) (cx cy : Nat) (spr : List Byte) : Drawing :=
  drawRows cx cy spr { fb := fb, coll := false }

/-- `00E0`, clear (R160). -/
def execCls (s : State) : Result := .next (s.setFb clearFrame)

/-- `Dxyn`, draw `n` bytes from `I` at column `Vx`, row `Vy`; VF gets the collision bit (R162). -/
def execDrw (x y : RegIndex) (n : Nibble) (s : State) : Result :=
  match s.readBytes s.indexAddr n.toNat with
  | .error f => raise f
  | .ok spr =>
    let d := drawSprite s.fb (s.reg x).toNat (s.reg y).toNat spr
    .next ((s.setFb d.fb).setReg flagReg (flagByte d.coll))

end Sys2Proof.Machine
end

