-- ==== Sys2Proof/Machine/Index.lean ====
section
/-! DEFINITION. The index register and memory transfer (spec/42_index_memory.md). No transfer changes I (R146, D10). -/

namespace Sys2Proof.Machine

/-- `Annn`, load index (R140). -/
def execLdI (nnn : Addr) (s : State) : Result := .next (s.setI (zext16 nnn))

/-- `Fx1E`, add to index: a sum that does not fit 16 bits raises `OutOfBounds` (R141, D11). VF is not written. -/
def execAddIVx (x : RegIndex) (s : State) : Result :=
  let sum := s.i.toNat + (s.reg x).toNat
  if sum > 0xFFFF then raise (.outOfBounds sum) else .next (s.setI (BitVec.ofNat 16 sum))

/-- `Fx29`, point the index at a glyph (R142). -/
def execLdFVx (x : RegIndex) (s : State) : Result := .next (s.setI (glyphAddr s.font (s.reg x)))

/-- `Fx33`, store the three decimal digits at `I`, `I + 1`, `I + 2` (R143). -/
def execLdBVx (x : RegIndex) (s : State) : Result := commit (s.writeBytes s.indexAddr (bcdDigits (s.reg x)))

/-- `Fx55`, store `V0`..`Vx` at `I`.. (R144). -/
def execLdMemVx (x : RegIndex) (s : State) : Result := commit (s.writeBytes s.indexAddr (s.regBlock x))

/-- `Fx65`, load `V0`..`Vx` from `I`.. (R145). -/
def execLdVxMem (x : RegIndex) (s : State) : Result :=
  match s.readBytes s.indexAddr (x.toNat + 1) with
  | .ok bytes => .next (s.setRegsFrom 0 bytes)
  | .error f => raise f

end Sys2Proof.Machine
end

