-- ==== Sys2Proof/Machine/Keypad.lean ====
section
/-! DEFINITION. Keypad and timer instructions (spec/44_keypad_timer.md). The key is the step's input (R180). -/

namespace Sys2Proof.Machine

/-- `Ex9E`, skip if the key equals Vx (R181). -/
def execSkp (x : RegIndex) (s : State) : Result := .next (s.skipIf (keyIs s.key (s.reg x)))

/-- `ExA1`, skip if the key differs from Vx, no key counting as different (R182). -/
def execSknp (x : RegIndex) (s : State) : Result := .next (s.skipIf (!keyIs s.key (s.reg x)))

/-- `Fx07`, read the delay timer (R183). -/
def execLdVxDt (x : RegIndex) (s : State) : Result := .next (s.setReg x s.timers.dt)

/-- `Fx0A`, wait for a key: without one, pc goes back to this instruction (R184). -/
def execLdVxK (x : RegIndex) (s : State) : Result :=
  .next (match s.key with
    | none => s.setPc (s.pc - 2)
    | some k => s.setReg x (k.setWidth 8))

/-- `Fx15`, set the delay timer (R185). -/
def execLdDtVx (x : RegIndex) (s : State) : Result := .next (s.setDt (s.reg x))

/-- `Fx18`, set the sound timer (R186). -/
def execLdStVx (x : RegIndex) (s : State) : Result := .next (s.setSt (s.reg x))

end Sys2Proof.Machine
end

