-- ==== Sys2Proof/Machine/Scheduler.lean ====
section
/-! DEFINITION. The timer scheduler and the host's control of it (spec/60_exceptions.md R205 to R210). -/

namespace Sys2Proof.Machine

/-- A timer's decrement, clamped at zero (R207). -/
def countDown (b : Byte) : Byte := BitVec.ofNat 8 (b.toNat - 1)

/-- `Tick`: both timers decremented in one transition (R207). -/
def Timers.tick (t : Timers) : Timers := { t with dt := countDown t.dt, st := countDown t.st }

/-- `start()`: `run <- Running` from any state (R208), after a `stop()` too (R210). -/
def Timers.start (t : Timers) : Timers := { t with run := .running }

/-- `stop()`: from Running to Stopping, nothing otherwise (R209). -/
def Timers.stop (t : Timers) : Timers :=
  match t.run with
  | .running => { t with run := .stopping }
  | .stopped => t
  | .stopping => t

/-- The scheduler's tick where it may happen: while Running, or as the last one of Stopping, which then ends (R206, R209). While
Stopped there is no such transition, and the event does nothing (log entry 4). -/
def Timers.schedulerTick (t : Timers) : Timers :=
  match t.run with
  | .running => t.tick
  | .stopping => { t.tick with run := .stopped }
  | .stopped => t

/-- The end of a Stopping cycle with no tick (R209). -/
def Timers.settle (t : Timers) : Timers :=
  match t.run with
  | .stopping => { t with run := .stopped }
  | .running => t
  | .stopped => t

/-- One event (R217). -/
def Timers.after (t : Timers) : Event → Timers
  | .start => t.start
  | .stop => t.stop
  | .tick => t.schedulerTick
  | .settle => t.settle

/-- Events in the order in which they land (R206). -/
def Timers.afterAll (t : Timers) : List Event → Timers
  | [] => t
  | e :: es => (t.after e).afterAll es

/-- The state in which the coming step runs: the events that land before it have landed. They touch only DT, ST and `run`
(R205, R206; log entry 3). -/
def State.arrived (s : State) : State := { s with timers := s.timers.afterAll s.input.events }

/-- One event that lands between two steps. -/
def State.event (s : State) (e : Event) : State := { s with timers := s.timers.after e }

end Sys2Proof.Machine
end

