-- ==== Sys2Proof/Machine/Step.lean ====
section
/-! DEFINITION. One step of the machine (spec/30_encoding.md R74, spec/60_exceptions.md R205, R206, R215). -/

namespace Sys2Proof.Machine

/-- The commit of a step: its input is used up with it (R38, R180). -/
def finishStep : Result → Result
  | .next t => .next t.consumeInput
  | .fault f => .fault f
  | .refused r => .refused r

/-- `Step(key, rand)` (R74), after what landed since the step before it (R206): fetch, decode, `pc <- pc + 2`, execute. An error
of the fetch, of decode or of the instruction is the outcome, and nothing is committed (R202). -/
def step (s : State) : Host.Outcome State Fault Refusal :=
  match fetchInstr s.arrived with
  | .error f => raise f
  | .ok i => finishStep (exec i s.arrived.advancePc)

/-- `s` with the instruction word `w` of `nbits` bits stored where `step` fetches next, high byte at pc (R57;
log entry 10). -/
def State.withFetchWord (s : State) (nbits w : Nat) : State := s.placeWord (BitVec.ofNat 16 (w % 2 ^ nbits))

end Sys2Proof.Machine
end

