-- ==== Sys2Proof/Machine/Port.lean ====
section
/-! DEFINITION. The host interface beside `step` (spec/60_exceptions.md R215 to R222, spec/70_reset_and_hazards.md R240):
construction, the three reads, and a step call with its outcome and the state after it. `start()` and `stop()` are events
(Scheduler.lean). -/

namespace Sys2Proof.Machine

/-- `construct(program)` (R216, R240): a program that does not fit fails with `OutOfBounds` and gives no machine (R241). -/
def State.construct (font : Font) (program : List Byte) : Except Fault State :=
  if imageFits program then .ok ((State.fresh font).setBytes progBase program)
  else .error (.outOfBounds memSize)

/-- The same machine with its coming inputs scripted: for the model's own tests and for claims about given inputs. -/
def State.withInputs (s : State) (inputs : List StepInput) : State := { s with inputs := inputs }

/-- `frame()`: pixel (column, row), true where set (R218). -/
def State.frame (s : State) (c : Fin 64) (r : Fin 32) : Bool := pixel s.fb c r

/-- `soundActive()`: `ST != 0` (R222). -/
def State.soundActive (s : State) : Bool := decide (s.timers.st ≠ 0)

/-- What `debugSnapshot()` returns (R221). -/
structure Snapshot where
  v : Vector Byte 16
  pc : Word
  sp : Int
  stack : Vector Word 16
  i : Word
deriving DecidableEq, Repr

/-- `debugSnapshot()`: SP is reported as the signed value -1..15 (R221, R29). -/
def State.debugSnapshot (s : State) : Snapshot :=
  { v := s.v, pc := s.pc, sp := s.sp, stack := s.stack, i := s.i }

/-- What a call of `step(key)` gives the host: `Ok` (none) or the error, and the state after it (R200). After an error the host
may call again (R203; log entry 8). -/
structure StepCall where
  error : Option Fault
  after : State
deriving DecidableEq, Repr

/-- A call of `step(key)`, errors included (R200, R202, R203). A failing step commits nothing: the state after it is the one
in which it ran, where the events before it have landed, its input being used up. A refusal has no counterpart in the spec and
no meaning gives one; the call then leaves the state as it is. -/
def stepCall (s : State) : StepCall :=
  match step s with
  | .next t => { error := none, after := t }
  | .fault f => { error := some f, after := s.arrived.consumeInput }
  | .refused _ => { error := none, after := s }

end Sys2Proof.Machine
end

