-- ==== Sys2Proof/Safety.lean ====
section
/-! DEFINITION. The terms in which claims speak of states: the machine's invariant, what two states agree on, the words of an
instruction. -/

namespace Sys2Proof.Machine

/-! ### The invariant -/

/-- Every slot holds an address a call can have pushed, at most 0x1000 (R100: "Every pushed address is at most 0x1000"). -/
def StackBounded (s : State) : Prop := ∀ j : Fin 16, (s.slot j).toNat ≤ 0x1000

/-- The machine's invariant, as it stands between two steps: memory is in its canonical form, pc is at most 0x10FE (R26: "`Bnnn`
gives at most 0x10FE; a skip after a fetch at 0xFFE gives at most 0x1002"), and every slot is at most 0x1000 (R100). -/
structure State.Inv (s : State) : Prop where
  mem_canonical : memWf s.font s.mem = true
  pc_bound : s.pc.toNat ≤ 0x10FE
  stack_bound : StackBounded s

/-! ### Agreement of two states: what an instruction leaves unchanged -/

/-- The general registers outside `touched` are the same. -/
def SameRegsOff (touched : List RegIndex) (s t : State) : Prop := ∀ r : RegIndex, r ∉ touched → t.reg r = s.reg r

/-- Every general register is the same, VF included. -/
def SameRegs (s t : State) : Prop := ∀ r : RegIndex, t.reg r = s.reg r

/-- Every byte of memory reads the same. -/
def SameMemory (s t : State) : Prop := ∀ a : Nat, t.byteAt a = s.byteAt a

/-- Every byte outside the `n` bytes from `a` on reads the same. -/
def SameMemoryOff (a n : Nat) (s t : State) : Prop := ∀ b : Nat, b < a ∨ a + n ≤ b → t.byteAt b = s.byteAt b

/-- The call stack is the same: the slots and the stack pointer. -/
def SameStack (s t : State) : Prop := t.sp = s.sp ∧ ∀ j : Fin 16, t.slot j = s.slot j

/-- Every pixel is the same. -/
def SameFrame (s t : State) : Prop := ∀ (c : Fin 64) (r : Fin 32), pixel t.fb c r = pixel s.fb c r

/-- DT, ST and `run` are the same. -/
def SameTimers (s t : State) : Prop := t.timers = s.timers

/-- The model's own fields are the same: the font, the queue of inputs, the count of draws. -/
def SameModelFields (s t : State) : Prop := t.font = s.font ∧ t.inputs = s.inputs ∧ t.draws = s.draws

/-- The frame of an instruction that writes general registers only: those in `touched`. Here and below `pc` is the pc of the
execute phase, already advanced by the fetch. -/
def OnlyRegs (touched : List RegIndex) (s t : State) : Prop :=
  SameRegsOff touched s t ∧ t.i = s.i ∧ t.pc = s.pc ∧ SameMemory s t ∧ SameStack s t ∧ SameFrame s t ∧ SameTimers s t ∧
    SameModelFields s t

/-- The frame of a jump or a skip: all is the same but pc. -/
def OnlyPc (s t : State) : Prop :=
  SameRegs s t ∧ t.i = s.i ∧ SameMemory s t ∧ SameStack s t ∧ SameFrame s t ∧ SameTimers s t ∧ SameModelFields s t

/-- The frame of a call or a return: all is the same but pc and the call stack. -/
def OnlyPcAndStack (s t : State) : Prop :=
  SameRegs s t ∧ t.i = s.i ∧ SameMemory s t ∧ SameFrame s t ∧ SameTimers s t ∧ SameModelFields s t

/-- The frame of an instruction that writes I only. -/
def OnlyIndex (s t : State) : Prop :=
  SameRegs s t ∧ t.pc = s.pc ∧ SameMemory s t ∧ SameStack s t ∧ SameFrame s t ∧ SameTimers s t ∧ SameModelFields s t

/-- The frame of an instruction that stores the `n` bytes from `a` on, and does nothing else. -/
def OnlyBytes (a n : Nat) (s t : State) : Prop :=
  SameRegs s t ∧ t.i = s.i ∧ t.pc = s.pc ∧ SameMemoryOff a n s t ∧ SameStack s t ∧ SameFrame s t ∧ SameTimers s t ∧
    SameModelFields s t

/-- The frame of an instruction that writes the frame buffer and the general registers in `touched`. -/
def OnlyFrameAndRegs (touched : List RegIndex) (s t : State) : Prop :=
  SameRegsOff touched s t ∧ t.i = s.i ∧ t.pc = s.pc ∧ SameMemory s t ∧ SameStack s t ∧ SameTimers s t ∧ SameModelFields s t

/-- The frame of an instruction that writes a timer: all is the same but DT and ST. -/
def OnlyTimers (s t : State) : Prop :=
  SameRegs s t ∧ t.i = s.i ∧ t.pc = s.pc ∧ SameMemory s t ∧ SameStack s t ∧ SameFrame s t ∧
    t.timers.run = s.timers.run ∧ SameModelFields s t

/-- The two states hold the same architectural state, DT, ST, `run` and the model's own queue of inputs left aside. -/
def SameButTimers (s t : State) : Prop :=
  SameRegs s t ∧ t.i = s.i ∧ t.pc = s.pc ∧ SameMemory s t ∧ SameStack s t ∧ SameFrame s t ∧ t.font = s.font

/-- What decides whether a step is an error (R203: "Every error condition depends only on pc, the memory, SP, I and the general
registers"). -/
def SameErrorInputs (s t : State) : Prop :=
  SameRegs s t ∧ t.i = s.i ∧ t.pc = s.pc ∧ t.sp = s.sp ∧ SameMemory s t

/-! ### Kinds of instruction -/

/-- The skips (R17, R109). -/
def Skips : Instr → Prop
  | .seImm _ _ | .sneImm _ _ | .seReg _ _ | .sneReg _ _ | .skp _ | .sknp _ => True
  | _ => False

/-- The instructions that write a flag to VF (R21). -/
def WritesFlag : Instr → Prop
  | .addImm _ _ | .addReg _ _ | .sub _ _ | .shr _ _ | .subn _ _ | .shl _ _ | .drw _ _ _ => True
  | _ => False

/-- The instructions that write VF as their destination register, by R23 (`x = F`, the block of `Fx65` included). -/
def WritesVFAsDestination : Instr → Prop
  | .ldImm x _ | .ldReg x _ | .or x _ | .and x _ | .xor x _ | .rnd x _ | .ldVxDt x | .ldVxK x | .ldVxMem x => x = flagReg
  | _ => False

/-! ### The encoding of an instruction -/

/-- The word of `i` has the fixed bits `value` under `mask`, and decodes to `i` (R73, R75). -/
def EncodedUnder (i : Instr) (value mask : Word) : Prop :=
  encode i &&& mask = value ∧ decodeWord (encode i) = .ok i

/-! ### The sprite -/

/-- The bit of a sprite at column offset `b` and row `k`: `spr[k][7 - b]` (R161). -/
def spriteBit (spr : List Byte) (k b : Nat) : Bool := (spr.getD k 0).getLsbD (7 - b)

end Sys2Proof.Machine
end

