-- ==== Sys2Proof/Certificates/Slice0/Obligations.lean ====
section
/-! DEFINITION. The statements for the provers. Each docstring quotes or names what it formalises; where a clause rests on a
decision the spec marks as its own, the docstring names it (D<n> of spec/92_eei_decisions.md). `exec` is the execute phase: its
state's pc is already advanced by the fetch (R15, R74). -/

open Sys2Proof Sys2Proof.Machine

/-! ### Encoding -/

/-- A few words, written out bit by bit from R73 and R75, decode to the instructions they stand for: one or more of each family. -/
def Obligations.SomeWordsDecodeAsTheTableSays : Prop :=
  decodeWord 0x00E0 = .ok .cls ∧ decodeWord 0x00EE = .ok .ret ∧ decodeWord 0x2206 = .ok (.call 0x206) ∧
  decodeWord 0x3310 = .ok (.seImm 3 0x10) ∧ decodeWord 0x9120 = .ok (.sneReg 1 2) ∧
  decodeWord 0x70FF = .ok (.addImm 0 0xFF) ∧ decodeWord 0x8125 = .ok (.sub 1 2) ∧ decodeWord 0x812E = .ok (.shl 1 2) ∧
  decodeWord 0xA123 = .ok (.ldI 0x123) ∧ decodeWord 0xF265 = .ok (.ldVxMem 2) ∧ decodeWord 0xD125 = .ok (.drw 1 2 5) ∧
  decodeWord 0xE2A1 = .ok (.sknp 2) ∧ decodeWord 0xF30A = .ok (.ldVxK 3) ∧
  decodeWord 0x5001 = .error (.illegalOpcode 0x5001) ∧ decodeWord 0x0000 = .error (.illegalOpcode 0x0000)

/-- Decoding inverts encoding, for every well-formed instruction with every value of its operands, on the word and on the bytes in
memory order, whatever follows them (R57, R70, R71, R73, R75, R79). -/
def Obligations.DecodeInvertsEncode : Prop :=
  ∀ i : Instr, i.wellFormed = true →
    decodeWord (encode i) = .ok i ∧ ∀ rest : List Byte, decode (encodeBytes i ++ rest) = .ok (i, rest)

/-- Encoding inverts decoding: each word has one meaning and no bit of it is dropped, the don't-care `y` of SHR and SHL included
(R71, R73, R77, R79). -/
def Obligations.EncodeInvertsDecode : Prop :=
  ∀ (op : Word) (i : Instr), decodeWord op = .ok i → encode i = op

/-- R75: "`Decode(op)` returns the unique instruction whose row matches `(op & mask) == match`. If no row matches, it performs
`raise IllegalOpcode(op)`." The rows are `opcodeRows`, 34 of them. -/
def Obligations.DecodeFollowsTheTable : Prop :=
  opcodeRows.length = 34 ∧
  (∀ (op : Word) (row : OpcodeRow), row ∈ opcodeRows → op &&& row.mask = row.value →
    ∃ i, decodeOrRaise op = .ok i ∧ i.mnemonic = row.mnemonic ∧ ∀ j, decodeOrRaise op = .ok j → j = i) ∧
  (∀ (op : Word) (i : Instr), decodeOrRaise op = .ok i →
    ∃ row ∈ opcodeRows, row.mnemonic = i.mnemonic ∧ op &&& row.mask = row.value) ∧
  (∀ op : Word, (∀ row ∈ opcodeRows, op &&& row.mask ≠ row.value) → decodeOrRaise op = .error (.illegalOpcode op))

/-- R77: "No 16-bit word matches two rows of rule R75." -/
def Obligations.NoWordMatchesTwoRows : Prop :=
  ∀ (op : Word) (row row' : OpcodeRow), row ∈ opcodeRows → row' ∈ opcodeRows →
    op &&& row.mask = row.value → op &&& row'.mask = row'.value → row = row'

/-- The illegal words are exactly those of the ranges of R78, by the opcode map of R76; 0x0000 among them by decision D17. -/
def Obligations.IllegalWordsAreTheListedRanges : Prop :=
  ∀ op : Word, decodeWord op = .error (.illegalOpcode op) ↔
    (fieldO op = 0x0 ∧ op ≠ 0x00E0 ∧ op ≠ 0x00EE) ∨
    (fieldO op = 0x5 ∧ fieldN op ≠ 0) ∨
    (fieldO op = 0x8 ∧ fieldN op ∈ ([0x8, 0x9, 0xA, 0xB, 0xC, 0xD, 0xF] : List Nibble)) ∨
    (fieldO op = 0x9 ∧ fieldN op ≠ 0) ∨
    (fieldO op = 0xE ∧ fieldKK op ∉ ([0x9E, 0xA1] : List Byte)) ∨
    (fieldO op = 0xF ∧ fieldKK op ∉ ([0x07, 0x0A, 0x15, 0x18, 0x1E, 0x29, 0x33, 0x55, 0x65] : List Byte))

/-! ### The step -/

/-- A step runs the decoded instruction (R74, R206, R215): when the bytes at pc and pc + 1 decode to a well-formed `i`, the step is
`exec i` from the state where the events have landed (only DT, ST and `run` can differ) and pc is advanced by 2 without a wrap; a
next state comes with the step's input used up and nothing else touched, and an error is the step's error. That the events land
before the fetch is the model's choice (log entry 3), and so is the queue of inputs (log entry 2). -/
def Obligations.StepRunsTheDecodedInstruction : Prop :=
  ∀ (s : State) (i : Instr), s.pc.toNat + 1 < memSize →
    decode [s.byteAt s.pc.toNat, s.byteAt (s.pc.toNat + 1)] = .ok (i, []) → i.wellFormed = true →
    (∃ e : State, e = { s with pc := s.pc + 2, timers := s.timers.afterAll s.input.events } ∧
      e.pc.toNat = s.pc.toNat + 2 ∧
      (∀ u, exec i e = .next u → step s = .next u.consumeInput) ∧
      (∀ f, exec i e = .fault f → step s = .fault f) ∧
      (∀ r, exec i e = .refused r → step s = .refused r)) ∧
    (∀ u : State, SameButTimers u u.consumeInput ∧ SameTimers u u.consumeInput ∧
      u.consumeInput.inputs = u.inputs.tail ∧
      u.consumeInput.draws = (if u.inputs = [] then u.draws + 1 else u.draws))

/-- The checks of a step before its instruction's own, in their order (R204, decisions D14 and D34): pc outside memory, pc + 1
outside memory, a word that matches no row. -/
def Obligations.FetchAndDecodeErrorsInOrder : Prop :=
  ∀ s : State,
    (memSize ≤ s.pc.toNat → step s = .fault (.outOfBounds s.pc.toNat)) ∧
    (s.pc.toNat + 1 = memSize → step s = .fault (.outOfBounds memSize)) ∧
    (s.pc.toNat + 1 < memSize →
      (∀ row ∈ opcodeRows, row.fits (wordOfBytes (s.byteAt s.pc.toNat) (s.byteAt (s.pc.toNat + 1))) = false) →
      step s = .fault (.illegalOpcode (wordOfBytes (s.byteAt s.pc.toNat) (s.byteAt (s.pc.toNat + 1)))))

/-- R200: "Every `step(key)` returns exactly one outcome: `Ok`, or `Err(kind)` with `kind` one of `IllegalOpcode`,
`StackOverflow`, `StackUnderflow` or `OutOfBounds`." In particular no step is ever refused. -/
def Obligations.EveryStepIsOkOrOneOfFourErrors : Prop :=
  ∀ s : State,
    (∃ t, step s = .next t ∧ stepCall s = { error := none, after := t }) ∨
    (∃ f, step s = .fault f ∧ (stepCall s).error = some f ∧
      ((∃ op, f = .illegalOpcode op) ∨ f = .stackOverflow ∨ f = .stackUnderflow ∨ (∃ a, f = .outOfBounds a)))

/-- A failing step changes no architectural state (R202, decision D2): registers, I, pc, memory, stack, pixels; the timers are as
the events before the step left them, so with no event the timers are unchanged too. -/
def Obligations.FailingStepCommitsNothing : Prop :=
  ∀ (s : State) (f : Fault), step s = .fault f →
    (stepCall s).error = some f ∧ SameButTimers s (stepCall s).after ∧
    (stepCall s).after.timers = s.timers.afterAll s.input.events ∧
    (s.input.events = [] → SameTimers s (stepCall s).after)

/-- R203: the next step fails again with the same kind (here: the same error with its payload), whatever ticks, calls and inputs come
between, because "every error condition depends only on pc, the memory, SP, I and the general registers". -/
def Obligations.AnErrorRecursWhateverLandsBetween : Prop :=
  ∀ (s t : State) (f : Fault), step s = .fault f → SameErrorInputs s t → step t = .fault f

/-- The "raised by" column of R201 for the instructions, with the state in which each raises: "No other instruction can raise an
error." -/
def Obligations.OnlyTheListedInstructionsRaise : Prop :=
  ∀ (i : Instr) (s : State) (f : Fault), exec i s = .fault f →
    (i = .ret ∧ f = .stackUnderflow ∧ s.sp = 15) ∨
    (∃ nnn, i = .call nnn ∧ f = .stackOverflow ∧ s.sp = -1) ∨
    (∃ x, i = .addIVx x ∧ f = .outOfBounds (s.i.toNat + (s.reg x).toNat) ∧ s.i.toNat + (s.reg x).toNat > 0xFFFF) ∨
    (∃ a, f = .outOfBounds a ∧ memSize ≤ a ∧
      ((∃ x y n, i = .drw x y n) ∨ (∃ x, i = .ldBVx x) ∨ (∃ x, i = .ldMemVx x) ∨ (∃ x, i = .ldVxMem x)))

/-! ### Invariants and construction -/

/-- Reset meets the invariant. -/
def Obligations.ResetMeetsTheBounds : Prop := State.reset.Inv

/-- Every step keeps the invariant: the canonical form of memory, pc at most 0x10FE (so that it never wraps, R26), every slot at most
0x1000 (R100). From any state that meets it, not only from reset. -/
def Obligations.StepKeepsTheBounds : Prop :=
  ∀ s t : State, s.Inv → step s = .next t → t.Inv

/-- What construction gives meets the invariant, and so does what any event between two steps leaves. -/
def Obligations.ConstructionAndEventsMeetTheBounds : Prop :=
  (∀ (font : Font) (program : List Byte) (t : State), State.construct font program = .ok t → t.Inv) ∧
  (∀ (s : State) (e : Event), s.Inv → (s.event e).Inv)

/-- The canonical form is canonical: two memories in it that read the same at every address are the same list. -/
def Obligations.CanonicalMemoriesThatReadAlikeAreEqual : Prop :=
  ∀ (font : Font) (m m' : Memory), memWf font m = true → memWf font m' = true →
    (∀ a, readByte font m a = readByte font m' a) → m = m'

/-- R56: "At construction the program image `bytes` (length `len`) is copied to `M[0x200 + i] <- bytes[i]` for `0 <= i < len`",
and an image with `0x200 + len > MEM_SIZE` makes construction fail with `OutOfBounds`, no machine being produced. -/
def Obligations.ConstructionCopiesTheImageOrFails : Prop :=
  ∀ (font : Font) (bytes : List Byte),
    (0x200 + bytes.length ≤ memSize →
      ∃ t, State.construct font bytes = .ok t ∧ ∀ k (h : k < bytes.length), t.byteAt (0x200 + k) = bytes[k]) ∧
    (memSize < 0x200 + bytes.length → ∃ a, State.construct font bytes = .error (.outOfBounds a))

/-- The state after construction (R37, R240), for every font and every program that fits; the zero of free memory is decision D6,
the slots' zero D16, `run = Stopped` D18. -/
def Obligations.ConstructionGivesTheListedValues : Prop :=
  ∀ (font : Font) (program : List Byte), 0x200 + program.length ≤ memSize →
    ∃ t, State.construct font program = .ok t ∧ (∀ r, t.reg r = 0) ∧ t.i = 0 ∧ t.pc = 0x200 ∧ t.sp = 15 ∧
      (∀ j, t.slot j = 0) ∧ t.timers = { dt := 0, st := 0, run := .stopped } ∧ (∀ c r, pixel t.fb c r = false) ∧
      t.font = font ∧
      (∀ a, t.byteAt a =
        if 0x200 ≤ a then program.getD (a - 0x200) 0
        else if font.base.val ≤ a ∧ a < font.base.val + 80 then font.data.toList.getD (a - font.base.val) 0
        else 0)

/-- Reset is construction with an empty program (R37, R240, R242), for the implementation's font `Config.font`, whatever it is (log
entry 1); its first step fetches 0x0000 and fails (R242, decision D17). -/
def Obligations.ResetIsConstructionOfTheEmptyProgram : Prop :=
  State.construct Config.font [] = .ok State.reset ∧ step State.reset = .fault (.illegalOpcode 0x0000)

/-! ### The scheduler and the host's calls -/

/-- R207: "One scheduler cycle decrements both timers, each clamped at zero", in one transition that changes nothing else; it is the tick
event's whole effect while Running. -/
def Obligations.TickDecrementsBothTimersClampedAtZero : Prop :=
  ∀ t : Timers,
    t.tick.dt.toNat = (if t.dt.toNat > 0 then t.dt.toNat - 1 else 0) ∧
    t.tick.st.toNat = (if t.st.toNat > 0 then t.st.toNat - 1 else 0) ∧ t.tick.run = t.run ∧
    (t.run = .running → t.after .tick = t.tick)

/-- `n` ticks while Running leave `max(0, N - n)` in each timer (R207, R247): a timer never goes negative, and after at least `N` ticks
it reads 0. -/
def Obligations.TicksCountDownToZero : Prop :=
  ∀ (n : Nat) (t : Timers), t.run = .running →
    (t.afterAll (List.replicate n .tick)).dt.toNat = t.dt.toNat - n ∧
    (t.afterAll (List.replicate n .tick)).st.toNat = t.st.toNat - n ∧
    (t.afterAll (List.replicate n .tick)).run = .running

/-- While Stopped, and with no `start()`, nothing that lands between two steps changes DT, ST or `run` (R206, R243, R247; that a tick event
then has no effect is the model's reading, log entry 4). -/
def Obligations.NoTickWhileStopped : Prop :=
  ∀ (t : Timers) (es : List Event), t.run = .stopped → .start ∉ es → t.afterAll es = t

/-- After `stop()` from Running, and with no later `start()`, at most one more tick lands, whatever comes; it never runs again, and the first
of a last tick or the end of the cycle stops it (R209, R249, decision D18). `stop()` from Stopped or Stopping changes nothing. `start()` sets Running
from any state, after a `stop()` too, and changes neither timer (R208, R210, decision D18). -/
def Obligations.AtMostOneTickAfterStopAndStartResumes : Prop :=
  (∀ (t : Timers) (es : List Event), t.run = .running → .start ∉ es →
    ∃ u, (t.after .stop).afterAll es = u ∧ u.run ≠ .running ∧
      ((u.dt = t.dt ∧ u.st = t.st) ∨ (u.dt = t.tick.dt ∧ u.st = t.tick.st ∧ u.run = .stopped)) ∧
      (.tick ∈ es ∨ .settle ∈ es → u.run = .stopped)) ∧
  (∀ t : Timers, t.run ≠ .running → t.after .stop = t) ∧
  (∀ t : Timers, (t.after .start).run = .running ∧ (t.after .start).dt = t.dt ∧ (t.after .start).st = t.st)

/-- `frame()`, `soundActive()` and `debugSnapshot()` return what the state holds: the pixels, whether ST is not 0, and the registers, pc, slots, I and
SP as a signed value from -1 to 15 with 15 - SP entries (R218, R221, R222, R29, decisions D15, D28, D31). -/
def Obligations.HostReadsShowTheState : Prop :=
  ∀ s : State, (∀ c r, s.frame c r = pixel s.fb c r) ∧ (s.soundActive = true ↔ s.timers.st.toNat ≠ 0) ∧
    (∀ r : RegIndex, s.debugSnapshot.v[r.toNat]'r.isLt = s.reg r) ∧ s.debugSnapshot.pc = s.pc ∧ s.debugSnapshot.i = s.i ∧
    (∀ j : Fin 16, s.debugSnapshot.stack.get j = s.slot j) ∧
    -1 ≤ s.debugSnapshot.sp ∧ s.debugSnapshot.sp ≤ 15 ∧ (s.depth.val : Int) = 15 - s.debugSnapshot.sp

/-! ### What no instruction touches but those listed -/

/-- DT is written by Fx15 only and ST by Fx18 only, and no instruction writes `run` (R31, R36, R205). -/
def Obligations.OnlyTimerInstructionsWriteTimers : Prop :=
  ∀ (i : Instr) (s t : State), exec i s = .next t →
    t.timers.run = s.timers.run ∧ ((∀ x, i ≠ .ldDtVx x) → t.timers.dt = s.timers.dt) ∧
    ((∀ x, i ≠ .ldStVx x) → t.timers.st = s.timers.st)

/-- No instruction reads ST or `run` (R31, R36): with another ST and another `run`, the same DT, every instruction does the same to all the
rest. -/
def Obligations.NoInstructionReadsSoundTimerOrRun : Prop :=
  ∀ (i : Instr) (s t : State) (st : Byte) (run : RunState), exec i s = .next t →
    ∃ u, exec i { s with timers := { s.timers with st := st, run := run } } = .next u ∧
      SameButTimers t u ∧ u.timers.dt = t.timers.dt ∧ u.timers.run = run

/-- Only 2nnn and 00EE use the call stack (R28), only 00E0 and Dxyn write the frame buffer (R33), and only Annn, Fx1E and Fx29 write I (R25, R146; that the
transfers leave I is decision D10). -/
def Obligations.StackPixelsAndIndexAreWrittenOnlyAsListed : Prop :=
  ∀ (i : Instr) (s t : State), exec i s = .next t →
    ((∀ nnn, i ≠ .call nnn) → i ≠ .ret → SameStack s t) ∧
    (i ≠ .cls → (∀ x y n, i ≠ .drw x y n) → SameFrame s t) ∧
    ((∀ nnn, i ≠ .ldI nnn) → (∀ x, i ≠ .addIVx x) → (∀ x, i ≠ .ldFVx x) → t.i = s.i)

/-- Only Fx33 and Fx55 write memory (R35, R59), and then only their own bytes from I on, computed as the meaning computes them. -/
def Obligations.OnlyTheTwoStoresWriteMemory : Prop :=
  ∀ (i : Instr) (s t : State), exec i s = .next t →
    ((∀ x, i ≠ .ldBVx x) → (∀ x, i ≠ .ldMemVx x) → SameMemory s t) ∧
    (∀ x, i = .ldBVx x → SameMemoryOff s.indexAddr 3 s t) ∧
    (∀ x, i = .ldMemVx x → SameMemoryOff s.indexAddr (x.toNat + 1) s t)

/-- pc changes only as R27 lists, over a whole step and in the naturals, so without a wrap (R26): the fetch, a skip, an absolute jump, a
return, the key-wait rewind. -/
def Obligations.PcChangesOnlyAsListed : Prop :=
  ∀ s t : State, step s = .next t → ∃ i, fetchInstr s = .ok i ∧
    (t.pc.toNat = s.pc.toNat + 2 ∨
     (Skips i ∧ t.pc.toNat = s.pc.toNat + 4) ∨
     (∃ nnn, (i = .jp nnn ∨ i = .call nnn) ∧ t.pc.toNat = nnn.toNat) ∨
     (∃ nnn, i = .jpV0 nnn ∧ t.pc.toNat = (s.reg 0).toNat + nnn.toNat) ∨
     (i = .ret ∧ ∃ j : Fin 16, (j.val : Int) = s.sp + 1 ∧ t.pc = s.slot j) ∨
     (∃ x, i = .ldVxK x ∧ s.key = none ∧ t.pc = s.pc))

/-- The flag writers of R21 leave 0 or 1 in VF, and an instruction that is none of them and does not have VF as its destination leaves VF
alone (R21, R24; the logical operations by decision D8, Fx1E by D11). -/
def Obligations.VFIsWrittenOnlyAsListed : Prop :=
  ∀ (i : Instr) (s t : State), exec i s = .next t →
    (WritesFlag i → t.vf = 0 ∨ t.vf = 1) ∧ (¬ WritesFlag i → ¬ WritesVFAsDestination i → t.vf = s.vf)

/-- No instruction changes the model's own fields: the font parameters are constants of the machine (R8, R9, log entry 1), and the input of
a step is not latched or written by an instruction (R38, R180, log entry 2). -/
def Obligations.NoInstructionWritesTheModelFields : Prop :=
  ∀ (i : Instr) (s t : State), exec i s = .next t → SameModelFields s t

/-! ### Control transfer -/

/-- Return (R100): from a stack with an entry, SP moves up by one and pc is the slot at the new SP; no slot is cleared (R30). From an empty
stack, `StackUnderflow`. -/
def Obligations.ReturnPopsTheStack : Prop :=
  ∀ s : State,
    (∀ j : Fin 16, (j.val : Int) = s.sp + 1 →
      ∃ t, exec .ret s = .next t ∧ t.pc = s.slot j ∧ t.sp = s.sp + 1 ∧ (∀ k, t.slot k = s.slot k) ∧ OnlyPcAndStack s t) ∧
    (s.sp = 15 → exec .ret s = .fault .stackUnderflow)

/-- R101: "`1nnn`: jump. Operands: `nnn`, an absolute 12-bit target." A target at 0xFFF makes the next fetch fail. -/
def Obligations.JumpSetsPc : Prop :=
  ∀ (s : State) (nnn : Addr), EncodedUnder (.jp nnn) 0x1000 0xF000 ∧
    ∃ t, exec (.jp nnn) s = .next t ∧ t.pc.toNat = nnn.toNat ∧ OnlyPc s t ∧
      (nnn = 0xFFF → fetchWord t = .error (.outOfBounds 0x1000))

/-- Call (R102, 90_conflicts.md C2): with a free slot, the pc of the execute phase (the next instruction's address) goes to the slot at SP,
SP moves down by one and pc is `nnn`. With SP = -1, `StackOverflow`. -/
def Obligations.CallPushesTheReturnAddress : Prop :=
  ∀ (s : State) (nnn : Addr),
    (∀ j : Fin 16, (j.val : Int) = s.sp →
      ∃ t, exec (.call nnn) s = .next t ∧ t.pc.toNat = nnn.toNat ∧ t.slot j = s.pc ∧ t.sp = s.sp - 1 ∧
        (∀ k, k ≠ j → t.slot k = s.slot k) ∧ OnlyPcAndStack s t) ∧
    (s.sp = -1 → exec (.call nnn) s = .fault .stackOverflow)

/-- A call followed by a return comes back to the instruction after the call, with the stack pointer as before (R100, R102: "after `2nnn` then
`00EE`, PC equals the instruction address immediately following the original `2nnn`"). -/
def Obligations.ReturnUndoesCall : Prop :=
  ∀ (s t : State) (nnn : Addr), exec (.call nnn) s = .next t →
    ∃ u, exec .ret t = .next u ∧ u.pc = s.pc ∧ u.sp = s.sp ∧ OnlyPcAndStack s u

/-- R103: "skip if equal to an immediate"; R104: "skip if not equal to an immediate". A skip adds 2 to the advanced pc. -/
def Obligations.SkipOnImmediate : Prop :=
  ∀ (s : State) (x : RegIndex) (kk : Byte),
    EncodedUnder (.seImm x kk) 0x3000 0xF000 ∧ EncodedUnder (.sneImm x kk) 0x4000 0xF000 ∧
    (∃ t, exec (.seImm x kk) s = .next t ∧ t.pc = (if s.reg x = kk then s.pc + 2 else s.pc) ∧ OnlyPc s t) ∧
    (∃ t, exec (.sneImm x kk) s = .next t ∧ t.pc = (if s.reg x = kk then s.pc else s.pc + 2) ∧ OnlyPc s t)

/-- R105: "skip if registers equal"; R106: "skip if registers differ". The words with another low nibble are illegal. -/
def Obligations.SkipOnRegisters : Prop :=
  ∀ (s : State) (x y : RegIndex),
    EncodedUnder (.seReg x y) 0x5000 0xF00F ∧ EncodedUnder (.sneReg x y) 0x9000 0xF00F ∧
    (∀ n : Nibble, n ≠ 0 → decodeOrRaise (packXYN 0x5 x y n) = .error (.illegalOpcode (packXYN 0x5 x y n)) ∧
      decodeOrRaise (packXYN 0x9 x y n) = .error (.illegalOpcode (packXYN 0x9 x y n))) ∧
    (∃ t, exec (.seReg x y) s = .next t ∧ t.pc = (if s.reg x = s.reg y then s.pc + 2 else s.pc) ∧ OnlyPc s t) ∧
    (∃ t, exec (.sneReg x y) s = .next t ∧ t.pc = (if s.reg x = s.reg y then s.pc else s.pc + 2) ∧ OnlyPc s t)

/-- Jump with offset V0 (R107): the sum is not reduced (decision D13), and one at or above 0xFFF makes the next fetch fail. -/
def Obligations.JumpWithOffsetIsNotReduced : Prop :=
  ∀ (s : State) (nnn : Addr),
    ∃ t, exec (.jpV0 nnn) s = .next t ∧ t.pc.toNat = (s.reg 0).toNat + nnn.toNat ∧ OnlyPc s t ∧
      (0xFFF ≤ (s.reg 0).toNat + nnn.toNat → ∃ a, memSize ≤ a ∧ fetchWord t = .error (.outOfBounds a))

/-! ### Loads and arithmetic -/

/-- R120: "load immediate", `V[x] <- kk`; R122: "copy register", `V[x] <- V[y]`. VF changes only as the destination. -/
def Obligations.LoadImmediateAndCopy : Prop :=
  ∀ (s : State) (x y : RegIndex) (kk : Byte),
    EncodedUnder (.ldImm x kk) 0x6000 0xF000 ∧ EncodedUnder (.ldReg x y) 0x8000 0xF00F ∧
    (∃ t, exec (.ldImm x kk) s = .next t ∧ t.reg x = kk ∧ OnlyRegs [x] s t) ∧
    (∃ t, exec (.ldReg x y) s = .next t ∧ t.reg x = s.reg y ∧ OnlyRegs [x] s t)

/-- Add immediate (R121) and add registers (R126): the sum modulo 256, and in VF the carry of the unreduced sum, written last: with `x = F`
VF ends as the carry (decision D7, 90_conflicts.md C5). -/
def Obligations.AdditionsCarryIntoVF : Prop :=
  ∀ (s : State) (x y : RegIndex) (kk : Byte),
    (∃ t, exec (.addImm x kk) s = .next t ∧
      (x ≠ flagReg → (t.reg x).toNat = ((s.reg x).toNat + kk.toNat) % 256) ∧
      t.vf = (if (s.reg x).toNat + kk.toNat > 255 then 1 else 0) ∧ OnlyRegs [x, flagReg] s t) ∧
    (∃ t, exec (.addReg x y) s = .next t ∧
      (x ≠ flagReg → (t.reg x).toNat = ((s.reg x).toNat + (s.reg y).toNat) % 256) ∧
      t.vf = (if (s.reg x).toNat + (s.reg y).toNat > 255 then 1 else 0) ∧ OnlyRegs [x, flagReg] s t)

/-- Subtract (R127) and reverse subtract (R129): the difference modulo 256, and in VF 1 when there is no borrow, written last (decision
D7). -/
def Obligations.SubtractionsLeaveNoBorrowInVF : Prop :=
  ∀ (s : State) (x y : RegIndex),
    (∃ t, exec (.sub x y) s = .next t ∧
      (x ≠ flagReg → ((t.reg x).toNat : Int) = (((s.reg x).toNat : Int) - (s.reg y).toNat) % 256) ∧
      t.vf = (if (s.reg x).toNat ≥ (s.reg y).toNat then 1 else 0) ∧ OnlyRegs [x, flagReg] s t) ∧
    (∃ t, exec (.subn x y) s = .next t ∧
      (x ≠ flagReg → ((t.reg x).toNat : Int) = (((s.reg y).toNat : Int) - (s.reg x).toNat) % 256) ∧
      t.vf = (if (s.reg y).toNat ≥ (s.reg x).toNat then 1 else 0) ∧ OnlyRegs [x, flagReg] s t)

/-- The shifts by one (R128, R130): of Vx, whatever y is (decision D9), with the bit shifted out in VF, written last (decision D7). -/
def Obligations.ShiftsDropTheirBitIntoVF : Prop :=
  ∀ (s : State) (x y : RegIndex),
    (∃ t, exec (.shr x y) s = .next t ∧ (x ≠ flagReg → t.reg x = s.reg x >>> 1) ∧
      t.vf.toNat = (s.reg x).toNat % 2 ∧ OnlyRegs [x, flagReg] s t) ∧
    (∃ t, exec (.shl x y) s = .next t ∧ (x ≠ flagReg → t.reg x = s.reg x <<< 1) ∧
      t.vf.toNat = (s.reg x).toNat / 128 ∧ OnlyRegs [x, flagReg] s t)

/-- OR, AND and XOR (R123, R124, R125), bit by bit; VF changes only as the destination (decision D8). -/
def Obligations.LogicIsBitwise : Prop :=
  ∀ (s : State) (x y : RegIndex),
    (∃ t, exec (.or x y) s = .next t ∧
      (∀ k, (t.reg x).getLsbD k = ((s.reg x).getLsbD k || (s.reg y).getLsbD k)) ∧ OnlyRegs [x] s t) ∧
    (∃ t, exec (.and x y) s = .next t ∧
      (∀ k, (t.reg x).getLsbD k = ((s.reg x).getLsbD k && (s.reg y).getLsbD k)) ∧ OnlyRegs [x] s t) ∧
    (∃ t, exec (.xor x y) s = .next t ∧
      (∀ k, (t.reg x).getLsbD k = ((s.reg x).getLsbD k ^^ (s.reg y).getLsbD k)) ∧ OnlyRegs [x] s t)

/-- Random byte (R131): `rand & kk` for the step's random byte, whatever it is (decision D20; the free value of log entry 2): `kk = 0x00` gives 0
and `kk = 0xFF` gives `rand` itself. -/
def Obligations.RandomByteIsMasked : Prop :=
  ∀ (s : State) (x : RegIndex) (kk : Byte),
    ∃ t, exec (.rnd x kk) s = .next t ∧ t.reg x = s.rand &&& kk ∧ (kk = 0 → t.reg x = 0) ∧ (kk = 0xFF → t.reg x = s.rand) ∧
      OnlyRegs [x] s t

/-! ### Index and memory transfer -/

/-- R140: "`Annn`: load index", `I <- zext_16(nnn)`. -/
def Obligations.LoadIndex : Prop :=
  ∀ (s : State) (nnn : Addr), EncodedUnder (.ldI nnn) 0xA000 0xF000 ∧
    ∃ t, exec (.ldI nnn) s = .next t ∧ t.i.toNat = nnn.toNat ∧ OnlyIndex s t

/-- Add to index (R141): the sum where it fits 16 bits, above 0xFFF too; else `OutOfBounds` with the sum (decision D11). VF is not written. -/
def Obligations.AddToIndexIsRangeChecked : Prop :=
  ∀ (s : State) (x : RegIndex),
    (s.i.toNat + (s.reg x).toNat ≤ 0xFFFF →
      ∃ t, exec (.addIVx x) s = .next t ∧ t.i.toNat = s.i.toNat + (s.reg x).toNat ∧ OnlyIndex s t) ∧
    (0xFFFF < s.i.toNat + (s.reg x).toNat → exec (.addIVx x) s = .fault (.outOfBounds (s.i.toNat + (s.reg x).toNat)))

/-- Glyph address (R142): five bytes per glyph from `FONT_BASE`, for every FONT_BASE; the low nibble of Vx selects it (decision D12). The address
stays below 0x200 (R52). -/
def Obligations.GlyphAddress : Prop :=
  ∀ (s : State) (x : RegIndex),
    ∃ t, exec (.ldFVx x) s = .next t ∧ t.i.toNat = s.font.base.val + 5 * ((s.reg x).toNat % 16) ∧ t.i.toNat + 5 ≤ 0x200 ∧
      OnlyIndex s t

/-- Store BCD (R143): hundreds, tens and ones at I, I + 1, I + 2, I unchanged; or, when I + 2 is outside memory, `OutOfBounds` with the lowest address
outside it, nothing being stored (decisions D2, D22). -/
def Obligations.StoreDecimalDigits : Prop :=
  ∀ (s : State) (x : RegIndex),
    (s.i.toNat + 2 < memSize →
      ∃ t, exec (.ldBVx x) s = .next t ∧
        (t.byteAt s.indexAddr).toNat = (s.reg x).toNat / 100 ∧
        (t.byteAt (s.indexAddr + 1)).toNat = (s.reg x).toNat / 10 % 10 ∧
        (t.byteAt (s.indexAddr + 2)).toNat = (s.reg x).toNat % 10 ∧ OnlyBytes s.indexAddr 3 s t) ∧
    (memSize ≤ s.i.toNat + 2 → exec (.ldBVx x) s = .fault (.outOfBounds (max s.i.toNat memSize)))

/-- Store registers (R144): V0..Vx at I..I + x, I unchanged (decision D10); or `OutOfBounds` with the lowest address outside memory, nothing being stored
(decisions D2, D22). -/
def Obligations.StoreRegisterBlock : Prop :=
  ∀ (s : State) (x : RegIndex),
    (s.i.toNat + x.toNat < memSize →
      ∃ t, exec (.ldMemVx x) s = .next t ∧
        (∀ k, k ≤ x.toNat → t.byteAt (s.indexAddr + k) = s.reg (BitVec.ofNat 4 k)) ∧
        OnlyBytes s.indexAddr (x.toNat + 1) s t) ∧
    (memSize ≤ s.i.toNat + x.toNat → exec (.ldMemVx x) s = .fault (.outOfBounds (max s.i.toNat memSize)))

/-- Load registers (R145): V0..Vx from I..I + x, registers above x and I unchanged (decision D10); or `OutOfBounds` with the lowest address outside memory,
no register being written (decisions D2, D22). -/
def Obligations.LoadRegisterBlock : Prop :=
  ∀ (s : State) (x : RegIndex),
    (s.i.toNat + x.toNat < memSize →
      ∃ t, exec (.ldVxMem x) s = .next t ∧
        (∀ r : RegIndex, r.toNat ≤ x.toNat → t.reg r = s.byteAt (s.i.toNat + r.toNat)) ∧
        (∀ r : RegIndex, x.toNat < r.toNat → t.reg r = s.reg r) ∧
        OnlyRegs ((List.range (x.toNat + 1)).map (BitVec.ofNat 4)) s t) ∧
    (memSize ≤ s.i.toNat + x.toNat → exec (.ldVxMem x) s = .fault (.outOfBounds (max s.i.toNat memSize)))

/-- A block stored by Fx55 and loaded back by Fx65 with the same x and I gives the registers their values again, whatever they held in between
(R144, R145, R146). -/
def Obligations.LoadUndoesStoreOfABlock : Prop :=
  ∀ (s t u : State) (x : RegIndex), exec (.ldMemVx x) s = .next t → t.i = u.i → (∀ a, u.byteAt a = t.byteAt a) →
    ∃ w, exec (.ldVxMem x) u = .next w ∧ ∀ r : RegIndex, r.toNat ≤ x.toNat → w.reg r = s.reg r

/-- A store is seen by the very next fetch (R64, R246): where Fx55 has stored Vk and V(k+1) at pc and pc + 1, the fetch reads the word they make. -/
def Obligations.NextFetchSeesTheStore : Prop :=
  ∀ (s t : State) (x : RegIndex) (k : Nat), exec (.ldMemVx x) s = .next t → k + 1 ≤ x.toNat → s.pc.toNat = s.i.toNat + k →
    fetchWord t = .ok (wordOfBytes (s.reg (BitVec.ofNat 4 k)) (s.reg (BitVec.ofNat 4 (k + 1))))

/-! ### Display -/

/-- R160: "clear the frame buffer": every pixel becomes 0, VF and all else stay. -/
def Obligations.ClearUnsetsEveryPixel : Prop :=
  ∀ s : State, EncodedUnder .cls 0x00E0 0xFFFF ∧
    ∃ t, exec .cls s = .next t ∧ (∀ c r, pixel t.fb c r = false) ∧ OnlyFrameAndRegs [] s t

/-- The draw loop of R161 equals the pointwise XOR with the wrapped sprite, for every sprite of at most 32 rows (R163: each pixel is touched at most once): at
column offset `b < 8` and row offset `k` below the height, the pixel is XORed with the sprite's bit, every other pixel stays; the collision bit says that some
set sprite bit fell on a set pixel. -/
def Obligations.DrawIsXorWithTheWrappedSprite : Prop :=
  ∀ (fb : Frame) (cx cy : Nat) (spr : List Byte), spr.length ≤ 32 →
    (∀ (k b : Nat), k < spr.length → b < 8 →
      pixel (drawSprite fb cx cy spr).fb (wrapCol (cx + b)) (wrapRow (cy + k)) =
        (pixel fb (wrapCol (cx + b)) (wrapRow (cy + k)) ^^ spriteBit spr k b)) ∧
    (∀ (c : Fin 64) (r : Fin 32), (∀ k b, k < spr.length → b < 8 → ¬ (c = wrapCol (cx + b) ∧ r = wrapRow (cy + k))) →
      pixel (drawSprite fb cx cy spr).fb c r = pixel fb c r) ∧
    ((drawSprite fb cx cy spr).coll = true ↔
      ∃ k b, k < spr.length ∧ b < 8 ∧ spriteBit spr k b = true ∧ pixel fb (wrapCol (cx + b)) (wrapRow (cy + k)) = true)

/-- Drawing a sprite twice at one place restores every pixel, and the second draw collides exactly when the sprite has a set bit (R163 (b), 90_conflicts.md
C6). -/
def Obligations.DrawingTwiceRestoresTheFrame : Prop :=
  ∀ (fb : Frame) (cx cy : Nat) (spr : List Byte), spr.length ≤ 32 →
    ∃ d, d = drawSprite (drawSprite fb cx cy spr).fb cx cy spr ∧ (∀ c r, pixel d.fb c r = pixel fb c r) ∧
      (d.coll = true ↔ ∃ k b, k < spr.length ∧ b < 8 ∧ spriteBit spr k b = true)

/-- Draw (R162): the `n` bytes from I drawn at column Vx, row Vy as they were before the draw, the collision in VF; `n = 0` reads nothing and leaves VF = 0 (decision
D22); where a byte of the sprite is outside memory, `OutOfBounds` with the lowest such address, no pixel and no register being written (decisions D2, D22). -/
def Obligations.DrawReadsTheSpriteAtTheIndex : Prop :=
  ∀ (s : State) (x y : RegIndex) (n : Nibble),
    (n.toNat = 0 ∨ s.i.toNat + n.toNat ≤ memSize →
      ∃ t spr, exec (.drw x y n) s = .next t ∧ spr.length = n.toNat ∧
        (∀ k, k < n.toNat → spr.getD k 0 = s.byteAt (s.i.toNat + k)) ∧
        (∀ c r, pixel t.fb c r = pixel (drawSprite s.fb (s.reg x).toNat (s.reg y).toNat spr).fb c r) ∧
        t.vf = (if (drawSprite s.fb (s.reg x).toNat (s.reg y).toNat spr).coll then 1 else 0) ∧
        (n.toNat = 0 → t.vf = 0 ∧ SameFrame s t) ∧ OnlyFrameAndRegs [flagReg] s t) ∧
    (0 < n.toNat → memSize < s.i.toNat + n.toNat → exec (.drw x y n) s = .fault (.outOfBounds (max s.i.toNat memSize)))

/-! ### Keypad and timers -/

/-- R181: "skip if the key equals Vx"; R182: "skip if the key differs from Vx". No key never equals; a value above 0x0F equals no key. -/
def Obligations.SkipOnKey : Prop :=
  ∀ (s : State) (x : RegIndex),
    EncodedUnder (.skp x) 0xE09E 0xF0FF ∧ EncodedUnder (.sknp x) 0xE0A1 0xF0FF ∧
    (∃ t, exec (.skp x) s = .next t ∧
      (∀ k, s.key = some k → t.pc = (if k.toNat = (s.reg x).toNat then s.pc + 2 else s.pc)) ∧
      (s.key = none → t.pc = s.pc) ∧ ((s.reg x).toNat > 0x0F → t.pc = s.pc) ∧ OnlyPc s t) ∧
    (∃ t, exec (.sknp x) s = .next t ∧
      (∀ k, s.key = some k → t.pc = (if k.toNat = (s.reg x).toNat then s.pc else s.pc + 2)) ∧
      (s.key = none → t.pc = s.pc + 2) ∧ ((s.reg x).toNat > 0x0F → t.pc = s.pc + 2) ∧ OnlyPc s t)

/-- Key wait (R184): without a key pc goes back by 2 and nothing else changes; with one, Vx holds it and pc stays advanced; no release is awaited (decision D27). -/
def Obligations.KeyWaitRewindsOrReads : Prop :=
  ∀ (s : State) (x : RegIndex),
    (s.key = none → ∃ t, exec (.ldVxK x) s = .next t ∧ t.pc = s.pc - 2 ∧ OnlyPc s t) ∧
    (∀ k, s.key = some k → ∃ t, exec (.ldVxK x) s = .next t ∧ (t.reg x).toNat = k.toNat ∧ OnlyRegs [x] s t)

/-- R183: "read the delay timer", `V[x] <- DT`; R185: "set the delay timer", `DT <- V[x]`; R186: "set the sound timer", `ST <- V[x]`, and `soundActive()` is true
exactly while ST is not 0. -/
def Obligations.TimerReadsAndWrites : Prop :=
  ∀ (s : State) (x : RegIndex),
    EncodedUnder (.ldVxDt x) 0xF007 0xF0FF ∧ EncodedUnder (.ldDtVx x) 0xF015 0xF0FF ∧ EncodedUnder (.ldStVx x) 0xF018 0xF0FF ∧
    (∃ t, exec (.ldVxDt x) s = .next t ∧ t.reg x = s.timers.dt ∧ OnlyRegs [x] s t) ∧
    (∃ t, exec (.ldDtVx x) s = .next t ∧ t.timers.dt = s.reg x ∧ t.timers.st = s.timers.st ∧ OnlyTimers s t) ∧
    (∃ t, exec (.ldStVx x) s = .next t ∧ t.timers.st = s.reg x ∧ t.timers.dt = s.timers.dt ∧
      (t.soundActive = true ↔ s.reg x ≠ 0) ∧ OnlyTimers s t)
end

