-- ==== Sys2Proof/Laws/Encoding.lean ====
section
/-! SUPPORT. The fields of a packed word, and its fixed bits under the masks of the table (spec/30_encoding.md R71, R73, R75). -/

namespace Sys2Proof

/-! ### The bits of a packed word -/

theorem getLsbD_packNNN (o : Nibble) (nnn : Addr) (i : Nat) :
    (packNNN o nnn).getLsbD i = if i < 12 then nnn.getLsbD i else o.getLsbD (i - 12) :=
  BitVec.getLsbD_append

theorem getLsbD_packXKK (o : Nibble) (x : RegIndex) (kk : Byte) (i : Nat) :
    (packXKK o x kk).getLsbD i =
      if i < 8 then kk.getLsbD i else if i < 12 then x.getLsbD (i - 8) else o.getLsbD (i - 12) := by
  have h1 : (packXKK o x kk).getLsbD i =
      if i < 12 then BitVec.getLsbD (x ++ kk) i else o.getLsbD (i - 12) := BitVec.getLsbD_append
  rw [h1, BitVec.getLsbD_append]
  split_ifs
  all_goals first | rfl | omega

theorem getLsbD_packXYN (o : Nibble) (x y : RegIndex) (n : Nibble) (i : Nat) :
    (packXYN o x y n).getLsbD i =
      if i < 4 then n.getLsbD i else if i < 8 then y.getLsbD (i - 4)
      else if i < 12 then x.getLsbD (i - 8) else o.getLsbD (i - 12) := by
  have h1 : (packXYN o x y n).getLsbD i =
      if i < 12 then (if i < 8 then BitVec.getLsbD (y ++ n) i else x.getLsbD (i - 8)) else o.getLsbD (i - 12) := by
    have h2 : (packXYN o x y n).getLsbD i = if i < 12 then BitVec.getLsbD (x ++ (y ++ n : BitVec 8) : BitVec 12) i
        else o.getLsbD (i - 12) := BitVec.getLsbD_append
    have h3 : BitVec.getLsbD (x ++ (y ++ n : BitVec 8) : BitVec 12) i =
        if i < 8 then BitVec.getLsbD (y ++ n : BitVec 8) i else x.getLsbD (i - 8) := BitVec.getLsbD_append
    rw [h2, h3]
  have h4 : BitVec.getLsbD (y ++ n : BitVec 8) i = if i < 4 then n.getLsbD i else y.getLsbD (i - 4) :=
    BitVec.getLsbD_append
  rw [h1, h4]
  split_ifs
  all_goals first | rfl | omega

theorem getLsbD_wordOfBytes (hi lo : Byte) (i : Nat) :
    (wordOfBytes hi lo).getLsbD i = if i < 8 then lo.getLsbD i else hi.getLsbD (i - 8) :=
  BitVec.getLsbD_append

/-! ### The fields of a packed word -/

@[simp] theorem fieldO_packNNN (o : Nibble) (nnn : Addr) : fieldO (packNNN o nnn) = o := by
  apply BitVec.eq_of_getLsbD_eq
  intro i hi
  rw [fieldO, BitVec.getLsbD_extractLsb', getLsbD_packNNN]
  interval_cases i <;> simp

@[simp] theorem fieldNNN_packNNN (o : Nibble) (nnn : Addr) : fieldNNN (packNNN o nnn) = nnn := by
  apply BitVec.eq_of_getLsbD_eq
  intro i hi
  rw [fieldNNN, BitVec.getLsbD_extractLsb', getLsbD_packNNN]
  interval_cases i <;> simp

@[simp] theorem fieldO_packXKK (o : Nibble) (x : RegIndex) (kk : Byte) : fieldO (packXKK o x kk) = o := by
  apply BitVec.eq_of_getLsbD_eq
  intro i hi
  rw [fieldO, BitVec.getLsbD_extractLsb', getLsbD_packXKK]
  interval_cases i <;> simp

@[simp] theorem fieldX_packXKK (o : Nibble) (x : RegIndex) (kk : Byte) : fieldX (packXKK o x kk) = x := by
  apply BitVec.eq_of_getLsbD_eq
  intro i hi
  rw [fieldX, BitVec.getLsbD_extractLsb', getLsbD_packXKK]
  interval_cases i <;> simp

@[simp] theorem fieldKK_packXKK (o : Nibble) (x : RegIndex) (kk : Byte) : fieldKK (packXKK o x kk) = kk := by
  apply BitVec.eq_of_getLsbD_eq
  intro i hi
  rw [fieldKK, BitVec.getLsbD_extractLsb', getLsbD_packXKK]
  interval_cases i <;> simp

@[simp] theorem fieldO_packXYN (o : Nibble) (x y : RegIndex) (n : Nibble) : fieldO (packXYN o x y n) = o := by
  apply BitVec.eq_of_getLsbD_eq
  intro i hi
  rw [fieldO, BitVec.getLsbD_extractLsb', getLsbD_packXYN]
  interval_cases i <;> simp

@[simp] theorem fieldX_packXYN (o : Nibble) (x y : RegIndex) (n : Nibble) : fieldX (packXYN o x y n) = x := by
  apply BitVec.eq_of_getLsbD_eq
  intro i hi
  rw [fieldX, BitVec.getLsbD_extractLsb', getLsbD_packXYN]
  interval_cases i <;> simp

@[simp] theorem fieldY_packXYN (o : Nibble) (x y : RegIndex) (n : Nibble) : fieldY (packXYN o x y n) = y := by
  apply BitVec.eq_of_getLsbD_eq
  intro i hi
  rw [fieldY, BitVec.getLsbD_extractLsb', getLsbD_packXYN]
  interval_cases i <;> simp

@[simp] theorem fieldN_packXYN (o : Nibble) (x y : RegIndex) (n : Nibble) : fieldN (packXYN o x y n) = n := by
  apply BitVec.eq_of_getLsbD_eq
  intro i hi
  rw [fieldN, BitVec.getLsbD_extractLsb', getLsbD_packXYN]
  interval_cases i <;> simp

/-! ### The fixed bits of a packed word -/

/-- Under the mask 0xF000 a word of format `NNN` shows its major nibble. -/
theorem packNNN_major (o : Nibble) (nnn : Addr) : packNNN o nnn &&& 0xF000#16 = packNNN o 0 := by
  apply BitVec.eq_of_getLsbD_eq
  intro i hi
  rw [BitVec.getLsbD_and, getLsbD_packNNN, getLsbD_packNNN]
  interval_cases i <;> simp

/-- Under the mask 0xF000 a word of format `XKK` shows its major nibble. -/
theorem packXKK_major (o : Nibble) (x : RegIndex) (kk : Byte) : packXKK o x kk &&& 0xF000#16 = packXKK o 0 0 := by
  apply BitVec.eq_of_getLsbD_eq
  intro i hi
  rw [BitVec.getLsbD_and, getLsbD_packXKK, getLsbD_packXKK]
  interval_cases i <;> simp

/-- Under the mask 0xF0FF a word of format `X` shows its major nibble and its sub-opcode. -/
theorem packXKK_sub (o : Nibble) (x : RegIndex) (kk : Byte) : packXKK o x kk &&& 0xF0FF#16 = packXKK o 0 kk := by
  apply BitVec.eq_of_getLsbD_eq
  intro i hi
  rw [BitVec.getLsbD_and, getLsbD_packXKK, getLsbD_packXKK]
  interval_cases i <;> simp

/-- Under the mask 0xF00F a word of format `XY` shows its major nibble and its sub-opcode. -/
theorem packXYN_sub (o : Nibble) (x y : RegIndex) (n : Nibble) : packXYN o x y n &&& 0xF00F#16 = packXYN o 0 0 n := by
  apply BitVec.eq_of_getLsbD_eq
  intro i hi
  rw [BitVec.getLsbD_and, getLsbD_packXYN, getLsbD_packXYN]
  interval_cases i <;> simp

/-- Under the mask 0xF000 a word of format `XYN` shows its major nibble. -/
theorem packXYN_major (o : Nibble) (x y : RegIndex) (n : Nibble) : packXYN o x y n &&& 0xF000#16 = packXYN o 0 0 0 := by
  apply BitVec.eq_of_getLsbD_eq
  intro i hi
  rw [BitVec.getLsbD_and, getLsbD_packXYN, getLsbD_packXYN]
  interval_cases i <;> simp

/-! ### The two bytes of a word -/

@[simp] theorem wordOfBytes_split (op : Word) : wordOfBytes (highByte op) (lowByte op) = op := by
  apply BitVec.eq_of_getLsbD_eq
  intro i hi
  rw [getLsbD_wordOfBytes]
  interval_cases i <;> simp [highByte, lowByte]

end Sys2Proof
end

