-- ==== Sys2Proof/Laws/State.lean ====
section
/-! SUPPORT. One lemma per field per update of State, each true by unfolding the update once, and the same for the accessors, so
that no later proof unfolds a record update. -/

namespace Sys2Proof.Machine

variable (s : State)

/-! ### setReg -/

@[simp] theorem State.setReg_v (x : RegIndex) (b : Byte) : (s.setReg x b).v = s.v.set x.toNat b x.isLt := rfl
@[simp] theorem State.setReg_i (x : RegIndex) (b : Byte) : (s.setReg x b).i = s.i := rfl
@[simp] theorem State.setReg_pc (x : RegIndex) (b : Byte) : (s.setReg x b).pc = s.pc := rfl
@[simp] theorem State.setReg_stack (x : RegIndex) (b : Byte) : (s.setReg x b).stack = s.stack := rfl
@[simp] theorem State.setReg_depth (x : RegIndex) (b : Byte) : (s.setReg x b).depth = s.depth := rfl
@[simp] theorem State.setReg_timers (x : RegIndex) (b : Byte) : (s.setReg x b).timers = s.timers := rfl
@[simp] theorem State.setReg_fb (x : RegIndex) (b : Byte) : (s.setReg x b).fb = s.fb := rfl
@[simp] theorem State.setReg_mem (x : RegIndex) (b : Byte) : (s.setReg x b).mem = s.mem := rfl
@[simp] theorem State.setReg_font (x : RegIndex) (b : Byte) : (s.setReg x b).font = s.font := rfl
@[simp] theorem State.setReg_inputs (x : RegIndex) (b : Byte) : (s.setReg x b).inputs = s.inputs := rfl
@[simp] theorem State.setReg_draws (x : RegIndex) (b : Byte) : (s.setReg x b).draws = s.draws := rfl
@[simp] theorem State.setReg_slot (x : RegIndex) (b : Byte) (j : Fin 16) : (s.setReg x b).slot j = s.slot j := rfl
@[simp] theorem State.setReg_sp (x : RegIndex) (b : Byte) : (s.setReg x b).sp = s.sp := rfl
@[simp] theorem State.setReg_byteAt (x : RegIndex) (b : Byte) (d : Nat) : (s.setReg x b).byteAt d = s.byteAt d := rfl
@[simp] theorem State.setReg_input (x : RegIndex) (b : Byte) : (s.setReg x b).input = s.input := rfl
@[simp] theorem State.setReg_key (x : RegIndex) (b : Byte) : (s.setReg x b).key = s.key := rfl
@[simp] theorem State.setReg_rand (x : RegIndex) (b : Byte) : (s.setReg x b).rand = s.rand := rfl

/-! ### setPc -/

@[simp] theorem State.setPc_v (w : Word) : (s.setPc w).v = s.v := rfl
@[simp] theorem State.setPc_i (w : Word) : (s.setPc w).i = s.i := rfl
@[simp] theorem State.setPc_pc (w : Word) : (s.setPc w).pc = w := rfl
@[simp] theorem State.setPc_stack (w : Word) : (s.setPc w).stack = s.stack := rfl
@[simp] theorem State.setPc_depth (w : Word) : (s.setPc w).depth = s.depth := rfl
@[simp] theorem State.setPc_timers (w : Word) : (s.setPc w).timers = s.timers := rfl
@[simp] theorem State.setPc_fb (w : Word) : (s.setPc w).fb = s.fb := rfl
@[simp] theorem State.setPc_mem (w : Word) : (s.setPc w).mem = s.mem := rfl
@[simp] theorem State.setPc_font (w : Word) : (s.setPc w).font = s.font := rfl
@[simp] theorem State.setPc_inputs (w : Word) : (s.setPc w).inputs = s.inputs := rfl
@[simp] theorem State.setPc_draws (w : Word) : (s.setPc w).draws = s.draws := rfl
@[simp] theorem State.setPc_reg (w : Word) (r : RegIndex) : (s.setPc w).reg r = s.reg r := rfl
@[simp] theorem State.setPc_slot (w : Word) (j : Fin 16) : (s.setPc w).slot j = s.slot j := rfl
@[simp] theorem State.setPc_sp (w : Word) : (s.setPc w).sp = s.sp := rfl
@[simp] theorem State.setPc_byteAt (w : Word) (d : Nat) : (s.setPc w).byteAt d = s.byteAt d := rfl
@[simp] theorem State.setPc_input (w : Word) : (s.setPc w).input = s.input := rfl
@[simp] theorem State.setPc_key (w : Word) : (s.setPc w).key = s.key := rfl
@[simp] theorem State.setPc_rand (w : Word) : (s.setPc w).rand = s.rand := rfl

/-! ### setI -/

@[simp] theorem State.setI_v (w : Word) : (s.setI w).v = s.v := rfl
@[simp] theorem State.setI_i (w : Word) : (s.setI w).i = w := rfl
@[simp] theorem State.setI_pc (w : Word) : (s.setI w).pc = s.pc := rfl
@[simp] theorem State.setI_stack (w : Word) : (s.setI w).stack = s.stack := rfl
@[simp] theorem State.setI_depth (w : Word) : (s.setI w).depth = s.depth := rfl
@[simp] theorem State.setI_timers (w : Word) : (s.setI w).timers = s.timers := rfl
@[simp] theorem State.setI_fb (w : Word) : (s.setI w).fb = s.fb := rfl
@[simp] theorem State.setI_mem (w : Word) : (s.setI w).mem = s.mem := rfl
@[simp] theorem State.setI_font (w : Word) : (s.setI w).font = s.font := rfl
@[simp] theorem State.setI_inputs (w : Word) : (s.setI w).inputs = s.inputs := rfl
@[simp] theorem State.setI_draws (w : Word) : (s.setI w).draws = s.draws := rfl
@[simp] theorem State.setI_reg (w : Word) (r : RegIndex) : (s.setI w).reg r = s.reg r := rfl
@[simp] theorem State.setI_slot (w : Word) (j : Fin 16) : (s.setI w).slot j = s.slot j := rfl
@[simp] theorem State.setI_sp (w : Word) : (s.setI w).sp = s.sp := rfl
@[simp] theorem State.setI_byteAt (w : Word) (d : Nat) : (s.setI w).byteAt d = s.byteAt d := rfl
@[simp] theorem State.setI_input (w : Word) : (s.setI w).input = s.input := rfl
@[simp] theorem State.setI_key (w : Word) : (s.setI w).key = s.key := rfl
@[simp] theorem State.setI_rand (w : Word) : (s.setI w).rand = s.rand := rfl

/-! ### setDt -/

@[simp] theorem State.setDt_v (b : Byte) : (s.setDt b).v = s.v := rfl
@[simp] theorem State.setDt_i (b : Byte) : (s.setDt b).i = s.i := rfl
@[simp] theorem State.setDt_pc (b : Byte) : (s.setDt b).pc = s.pc := rfl
@[simp] theorem State.setDt_stack (b : Byte) : (s.setDt b).stack = s.stack := rfl
@[simp] theorem State.setDt_depth (b : Byte) : (s.setDt b).depth = s.depth := rfl
@[simp] theorem State.setDt_timers (b : Byte) : (s.setDt b).timers = { s.timers with dt := b } := rfl
@[simp] theorem State.setDt_fb (b : Byte) : (s.setDt b).fb = s.fb := rfl
@[simp] theorem State.setDt_mem (b : Byte) : (s.setDt b).mem = s.mem := rfl
@[simp] theorem State.setDt_font (b : Byte) : (s.setDt b).font = s.font := rfl
@[simp] theorem State.setDt_inputs (b : Byte) : (s.setDt b).inputs = s.inputs := rfl
@[simp] theorem State.setDt_draws (b : Byte) : (s.setDt b).draws = s.draws := rfl
@[simp] theorem State.setDt_reg (b : Byte) (r : RegIndex) : (s.setDt b).reg r = s.reg r := rfl
@[simp] theorem State.setDt_slot (b : Byte) (j : Fin 16) : (s.setDt b).slot j = s.slot j := rfl
@[simp] theorem State.setDt_sp (b : Byte) : (s.setDt b).sp = s.sp := rfl
@[simp] theorem State.setDt_byteAt (b : Byte) (d : Nat) : (s.setDt b).byteAt d = s.byteAt d := rfl
@[simp] theorem State.setDt_input (b : Byte) : (s.setDt b).input = s.input := rfl
@[simp] theorem State.setDt_key (b : Byte) : (s.setDt b).key = s.key := rfl
@[simp] theorem State.setDt_rand (b : Byte) : (s.setDt b).rand = s.rand := rfl

/-! ### setSt -/

@[simp] theorem State.setSt_v (b : Byte) : (s.setSt b).v = s.v := rfl
@[simp] theorem State.setSt_i (b : Byte) : (s.setSt b).i = s.i := rfl
@[simp] theorem State.setSt_pc (b : Byte) : (s.setSt b).pc = s.pc := rfl
@[simp] theorem State.setSt_stack (b : Byte) : (s.setSt b).stack = s.stack := rfl
@[simp] theorem State.setSt_depth (b : Byte) : (s.setSt b).depth = s.depth := rfl
@[simp] theorem State.setSt_timers (b : Byte) : (s.setSt b).timers = { s.timers with st := b } := rfl
@[simp] theorem State.setSt_fb (b : Byte) : (s.setSt b).fb = s.fb := rfl
@[simp] theorem State.setSt_mem (b : Byte) : (s.setSt b).mem = s.mem := rfl
@[simp] theorem State.setSt_font (b : Byte) : (s.setSt b).font = s.font := rfl
@[simp] theorem State.setSt_inputs (b : Byte) : (s.setSt b).inputs = s.inputs := rfl
@[simp] theorem State.setSt_draws (b : Byte) : (s.setSt b).draws = s.draws := rfl
@[simp] theorem State.setSt_reg (b : Byte) (r : RegIndex) : (s.setSt b).reg r = s.reg r := rfl
@[simp] theorem State.setSt_slot (b : Byte) (j : Fin 16) : (s.setSt b).slot j = s.slot j := rfl
@[simp] theorem State.setSt_sp (b : Byte) : (s.setSt b).sp = s.sp := rfl
@[simp] theorem State.setSt_byteAt (b : Byte) (d : Nat) : (s.setSt b).byteAt d = s.byteAt d := rfl
@[simp] theorem State.setSt_input (b : Byte) : (s.setSt b).input = s.input := rfl
@[simp] theorem State.setSt_key (b : Byte) : (s.setSt b).key = s.key := rfl
@[simp] theorem State.setSt_rand (b : Byte) : (s.setSt b).rand = s.rand := rfl

/-! ### setFb -/

@[simp] theorem State.setFb_v (fb : Frame) : (s.setFb fb).v = s.v := rfl
@[simp] theorem State.setFb_i (fb : Frame) : (s.setFb fb).i = s.i := rfl
@[simp] theorem State.setFb_pc (fb : Frame) : (s.setFb fb).pc = s.pc := rfl
@[simp] theorem State.setFb_stack (fb : Frame) : (s.setFb fb).stack = s.stack := rfl
@[simp] theorem State.setFb_depth (fb : Frame) : (s.setFb fb).depth = s.depth := rfl
@[simp] theorem State.setFb_timers (fb : Frame) : (s.setFb fb).timers = s.timers := rfl
@[simp] theorem State.setFb_fb (fb : Frame) : (s.setFb fb).fb = fb := rfl
@[simp] theorem State.setFb_mem (fb : Frame) : (s.setFb fb).mem = s.mem := rfl
@[simp] theorem State.setFb_font (fb : Frame) : (s.setFb fb).font = s.font := rfl
@[simp] theorem State.setFb_inputs (fb : Frame) : (s.setFb fb).inputs = s.inputs := rfl
@[simp] theorem State.setFb_draws (fb : Frame) : (s.setFb fb).draws = s.draws := rfl
@[simp] theorem State.setFb_reg (fb : Frame) (r : RegIndex) : (s.setFb fb).reg r = s.reg r := rfl
@[simp] theorem State.setFb_slot (fb : Frame) (j : Fin 16) : (s.setFb fb).slot j = s.slot j := rfl
@[simp] theorem State.setFb_sp (fb : Frame) : (s.setFb fb).sp = s.sp := rfl
@[simp] theorem State.setFb_byteAt (fb : Frame) (d : Nat) : (s.setFb fb).byteAt d = s.byteAt d := rfl
@[simp] theorem State.setFb_input (fb : Frame) : (s.setFb fb).input = s.input := rfl
@[simp] theorem State.setFb_key (fb : Frame) : (s.setFb fb).key = s.key := rfl
@[simp] theorem State.setFb_rand (fb : Frame) : (s.setFb fb).rand = s.rand := rfl

/-! ### setByte -/

@[simp] theorem State.setByte_v (a : Nat) (b : Byte) : (s.setByte a b).v = s.v := rfl
@[simp] theorem State.setByte_i (a : Nat) (b : Byte) : (s.setByte a b).i = s.i := rfl
@[simp] theorem State.setByte_pc (a : Nat) (b : Byte) : (s.setByte a b).pc = s.pc := rfl
@[simp] theorem State.setByte_stack (a : Nat) (b : Byte) : (s.setByte a b).stack = s.stack := rfl
@[simp] theorem State.setByte_depth (a : Nat) (b : Byte) : (s.setByte a b).depth = s.depth := rfl
@[simp] theorem State.setByte_timers (a : Nat) (b : Byte) : (s.setByte a b).timers = s.timers := rfl
@[simp] theorem State.setByte_fb (a : Nat) (b : Byte) : (s.setByte a b).fb = s.fb := rfl
@[simp] theorem State.setByte_mem (a : Nat) (b : Byte) : (s.setByte a b).mem = putByte (unlistedByte s.font a) a b s.mem := rfl
@[simp] theorem State.setByte_font (a : Nat) (b : Byte) : (s.setByte a b).font = s.font := rfl
@[simp] theorem State.setByte_inputs (a : Nat) (b : Byte) : (s.setByte a b).inputs = s.inputs := rfl
@[simp] theorem State.setByte_draws (a : Nat) (b : Byte) : (s.setByte a b).draws = s.draws := rfl
@[simp] theorem State.setByte_reg (a : Nat) (b : Byte) (r : RegIndex) : (s.setByte a b).reg r = s.reg r := rfl
@[simp] theorem State.setByte_slot (a : Nat) (b : Byte) (j : Fin 16) : (s.setByte a b).slot j = s.slot j := rfl
@[simp] theorem State.setByte_sp (a : Nat) (b : Byte) : (s.setByte a b).sp = s.sp := rfl
@[simp] theorem State.setByte_input (a : Nat) (b : Byte) : (s.setByte a b).input = s.input := rfl
@[simp] theorem State.setByte_key (a : Nat) (b : Byte) : (s.setByte a b).key = s.key := rfl
@[simp] theorem State.setByte_rand (a : Nat) (b : Byte) : (s.setByte a b).rand = s.rand := rfl

/-! ### advancePc -/

@[simp] theorem State.advancePc_v : (s.advancePc).v = s.v := rfl
@[simp] theorem State.advancePc_i : (s.advancePc).i = s.i := rfl
@[simp] theorem State.advancePc_pc : (s.advancePc).pc = s.pc + 2 := rfl
@[simp] theorem State.advancePc_stack : (s.advancePc).stack = s.stack := rfl
@[simp] theorem State.advancePc_depth : (s.advancePc).depth = s.depth := rfl
@[simp] theorem State.advancePc_timers : (s.advancePc).timers = s.timers := rfl
@[simp] theorem State.advancePc_fb : (s.advancePc).fb = s.fb := rfl
@[simp] theorem State.advancePc_mem : (s.advancePc).mem = s.mem := rfl
@[simp] theorem State.advancePc_font : (s.advancePc).font = s.font := rfl
@[simp] theorem State.advancePc_inputs : (s.advancePc).inputs = s.inputs := rfl
@[simp] theorem State.advancePc_draws : (s.advancePc).draws = s.draws := rfl
@[simp] theorem State.advancePc_reg (r : RegIndex) : (s.advancePc).reg r = s.reg r := rfl
@[simp] theorem State.advancePc_slot (j : Fin 16) : (s.advancePc).slot j = s.slot j := rfl
@[simp] theorem State.advancePc_sp : (s.advancePc).sp = s.sp := rfl
@[simp] theorem State.advancePc_byteAt (d : Nat) : (s.advancePc).byteAt d = s.byteAt d := rfl
@[simp] theorem State.advancePc_input : (s.advancePc).input = s.input := rfl
@[simp] theorem State.advancePc_key : (s.advancePc).key = s.key := rfl
@[simp] theorem State.advancePc_rand : (s.advancePc).rand = s.rand := rfl

/-! ### arrived -/

@[simp] theorem State.arrived_v : (s.arrived).v = s.v := rfl
@[simp] theorem State.arrived_i : (s.arrived).i = s.i := rfl
@[simp] theorem State.arrived_pc : (s.arrived).pc = s.pc := rfl
@[simp] theorem State.arrived_stack : (s.arrived).stack = s.stack := rfl
@[simp] theorem State.arrived_depth : (s.arrived).depth = s.depth := rfl
@[simp] theorem State.arrived_timers : (s.arrived).timers = s.timers.afterAll s.input.events := rfl
@[simp] theorem State.arrived_fb : (s.arrived).fb = s.fb := rfl
@[simp] theorem State.arrived_mem : (s.arrived).mem = s.mem := rfl
@[simp] theorem State.arrived_font : (s.arrived).font = s.font := rfl
@[simp] theorem State.arrived_inputs : (s.arrived).inputs = s.inputs := rfl
@[simp] theorem State.arrived_draws : (s.arrived).draws = s.draws := rfl
@[simp] theorem State.arrived_reg (r : RegIndex) : (s.arrived).reg r = s.reg r := rfl
@[simp] theorem State.arrived_slot (j : Fin 16) : (s.arrived).slot j = s.slot j := rfl
@[simp] theorem State.arrived_sp : (s.arrived).sp = s.sp := rfl
@[simp] theorem State.arrived_byteAt (d : Nat) : (s.arrived).byteAt d = s.byteAt d := rfl
@[simp] theorem State.arrived_input : (s.arrived).input = s.input := rfl
@[simp] theorem State.arrived_key : (s.arrived).key = s.key := rfl
@[simp] theorem State.arrived_rand : (s.arrived).rand = s.rand := rfl

/-! ### event -/

@[simp] theorem State.event_v (e : Event) : (s.event e).v = s.v := rfl
@[simp] theorem State.event_i (e : Event) : (s.event e).i = s.i := rfl
@[simp] theorem State.event_pc (e : Event) : (s.event e).pc = s.pc := rfl
@[simp] theorem State.event_stack (e : Event) : (s.event e).stack = s.stack := rfl
@[simp] theorem State.event_depth (e : Event) : (s.event e).depth = s.depth := rfl
@[simp] theorem State.event_timers (e : Event) : (s.event e).timers = s.timers.after e := rfl
@[simp] theorem State.event_fb (e : Event) : (s.event e).fb = s.fb := rfl
@[simp] theorem State.event_mem (e : Event) : (s.event e).mem = s.mem := rfl
@[simp] theorem State.event_font (e : Event) : (s.event e).font = s.font := rfl
@[simp] theorem State.event_inputs (e : Event) : (s.event e).inputs = s.inputs := rfl
@[simp] theorem State.event_draws (e : Event) : (s.event e).draws = s.draws := rfl
@[simp] theorem State.event_reg (e : Event) (r : RegIndex) : (s.event e).reg r = s.reg r := rfl
@[simp] theorem State.event_slot (e : Event) (j : Fin 16) : (s.event e).slot j = s.slot j := rfl
@[simp] theorem State.event_sp (e : Event) : (s.event e).sp = s.sp := rfl
@[simp] theorem State.event_byteAt (e : Event) (d : Nat) : (s.event e).byteAt d = s.byteAt d := rfl
@[simp] theorem State.event_input (e : Event) : (s.event e).input = s.input := rfl
@[simp] theorem State.event_key (e : Event) : (s.event e).key = s.key := rfl
@[simp] theorem State.event_rand (e : Event) : (s.event e).rand = s.rand := rfl

/-! ### setRegFlag -/

@[simp] theorem State.setRegFlag_i (x : RegIndex) (b c : Byte) : (s.setRegFlag x b c).i = s.i := rfl
@[simp] theorem State.setRegFlag_pc (x : RegIndex) (b c : Byte) : (s.setRegFlag x b c).pc = s.pc := rfl
@[simp] theorem State.setRegFlag_stack (x : RegIndex) (b c : Byte) : (s.setRegFlag x b c).stack = s.stack := rfl
@[simp] theorem State.setRegFlag_depth (x : RegIndex) (b c : Byte) : (s.setRegFlag x b c).depth = s.depth := rfl
@[simp] theorem State.setRegFlag_timers (x : RegIndex) (b c : Byte) : (s.setRegFlag x b c).timers = s.timers := rfl
@[simp] theorem State.setRegFlag_fb (x : RegIndex) (b c : Byte) : (s.setRegFlag x b c).fb = s.fb := rfl
@[simp] theorem State.setRegFlag_mem (x : RegIndex) (b c : Byte) : (s.setRegFlag x b c).mem = s.mem := rfl
@[simp] theorem State.setRegFlag_font (x : RegIndex) (b c : Byte) : (s.setRegFlag x b c).font = s.font := rfl
@[simp] theorem State.setRegFlag_inputs (x : RegIndex) (b c : Byte) : (s.setRegFlag x b c).inputs = s.inputs := rfl
@[simp] theorem State.setRegFlag_draws (x : RegIndex) (b c : Byte) : (s.setRegFlag x b c).draws = s.draws := rfl
@[simp] theorem State.setRegFlag_slot (x : RegIndex) (b c : Byte) (j : Fin 16) : (s.setRegFlag x b c).slot j = s.slot j := rfl
@[simp] theorem State.setRegFlag_byteAt (x : RegIndex) (b c : Byte) (d : Nat) : (s.setRegFlag x b c).byteAt d = s.byteAt d := rfl
@[simp] theorem State.setRegFlag_sp (x : RegIndex) (b c : Byte) : (s.setRegFlag x b c).sp = s.sp := rfl

/-! ### consumeInput -/

@[simp] theorem State.consumeInput_v : s.consumeInput.v = s.v := by
  unfold State.consumeInput; split <;> rfl
@[simp] theorem State.consumeInput_i : s.consumeInput.i = s.i := by
  unfold State.consumeInput; split <;> rfl
@[simp] theorem State.consumeInput_pc : s.consumeInput.pc = s.pc := by
  unfold State.consumeInput; split <;> rfl
@[simp] theorem State.consumeInput_stack : s.consumeInput.stack = s.stack := by
  unfold State.consumeInput; split <;> rfl
@[simp] theorem State.consumeInput_depth : s.consumeInput.depth = s.depth := by
  unfold State.consumeInput; split <;> rfl
@[simp] theorem State.consumeInput_timers : s.consumeInput.timers = s.timers := by
  unfold State.consumeInput; split <;> rfl
@[simp] theorem State.consumeInput_fb : s.consumeInput.fb = s.fb := by
  unfold State.consumeInput; split <;> rfl
@[simp] theorem State.consumeInput_mem : s.consumeInput.mem = s.mem := by
  unfold State.consumeInput; split <;> rfl
@[simp] theorem State.consumeInput_font : s.consumeInput.font = s.font := by
  unfold State.consumeInput; split <;> rfl
@[simp] theorem State.consumeInput_reg (r : RegIndex) : s.consumeInput.reg r = s.reg r := by
  simp [State.reg]
@[simp] theorem State.consumeInput_slot (j : Fin 16) : s.consumeInput.slot j = s.slot j := by
  simp [State.slot]
@[simp] theorem State.consumeInput_sp : s.consumeInput.sp = s.sp := by
  simp [State.sp]
@[simp] theorem State.consumeInput_byteAt (d : Nat) : s.consumeInput.byteAt d = s.byteAt d := by
  simp [State.byteAt]

/-! ### skipIf -/

@[simp] theorem State.skipIf_v (b : Bool) : (s.skipIf b).v = s.v := by
  cases b <;> rfl
@[simp] theorem State.skipIf_i (b : Bool) : (s.skipIf b).i = s.i := by
  cases b <;> rfl
@[simp] theorem State.skipIf_pc (b : Bool) : (s.skipIf b).pc = if b then s.pc + 2 else s.pc := by
  cases b <;> rfl
@[simp] theorem State.skipIf_stack (b : Bool) : (s.skipIf b).stack = s.stack := by
  cases b <;> rfl
@[simp] theorem State.skipIf_depth (b : Bool) : (s.skipIf b).depth = s.depth := by
  cases b <;> rfl
@[simp] theorem State.skipIf_timers (b : Bool) : (s.skipIf b).timers = s.timers := by
  cases b <;> rfl
@[simp] theorem State.skipIf_fb (b : Bool) : (s.skipIf b).fb = s.fb := by
  cases b <;> rfl
@[simp] theorem State.skipIf_mem (b : Bool) : (s.skipIf b).mem = s.mem := by
  cases b <;> rfl
@[simp] theorem State.skipIf_font (b : Bool) : (s.skipIf b).font = s.font := by
  cases b <;> rfl
@[simp] theorem State.skipIf_inputs (b : Bool) : (s.skipIf b).inputs = s.inputs := by
  cases b <;> rfl
@[simp] theorem State.skipIf_draws (b : Bool) : (s.skipIf b).draws = s.draws := by
  cases b <;> rfl
@[simp] theorem State.skipIf_reg (b : Bool) (r : RegIndex) : (s.skipIf b).reg r = s.reg r := by
  simp [State.reg]
@[simp] theorem State.skipIf_slot (b : Bool) (j : Fin 16) : (s.skipIf b).slot j = s.slot j := by
  simp [State.slot]
@[simp] theorem State.skipIf_sp (b : Bool) : (s.skipIf b).sp = s.sp := by
  simp [State.sp]
@[simp] theorem State.skipIf_byteAt (b : Bool) (d : Nat) : (s.skipIf b).byteAt d = s.byteAt d := by
  simp [State.byteAt]

/-! ### Reading a register after a write -/

theorem State.reg_setReg (x : RegIndex) (b : Byte) (r : RegIndex) :
    (s.setReg x b).reg r = if x = r then b else s.reg r := by
  simp [State.reg, State.setReg, Vector.getElem_set, BitVec.toNat_inj]

@[simp] theorem State.reg_setReg_self (x : RegIndex) (b : Byte) : (s.setReg x b).reg x = b := by
  simp [State.reg_setReg]

theorem State.reg_setReg_ne {x r : RegIndex} (b : Byte) (h : x ≠ r) : (s.setReg x b).reg r = s.reg r := by
  simp [State.reg_setReg, h]

/-- After the result and the flag, VF holds the flag whatever the destination is (R22). -/
theorem State.reg_setRegFlag (x : RegIndex) (b c : Byte) (r : RegIndex) :
    (s.setRegFlag x b c).reg r = if flagReg = r then c else if x = r then b else s.reg r := by
  simp [State.setRegFlag, State.reg_setReg]

/-- The input of a step is the head of a queue that holds one. -/
theorem State.input_cons {inp : StepInput} {rest : List StepInput} (h : s.inputs = inp :: rest) : s.input = inp := by
  simp [State.input, h]

/-- Two states with the same registers agree in the field. -/
theorem State.v_ext {s t : State} (h : ∀ r : RegIndex, t.reg r = s.reg r) : t.v = s.v := by
  apply Vector.ext
  intro k hk
  have := h (BitVec.ofNat 4 k)
  simpa [State.reg, Nat.mod_eq_of_lt hk] using this

end Sys2Proof.Machine
end

