-- ==== Sys2Proof/Laws/Memory.lean ====
section
/-! SUPPORT. The laws of memory: a read after a write, the canonical form kept by every memory operation, and the closed forms
of the block accesses. -/

namespace Sys2Proof.Machine

/-! ### One byte -/

theorem lookup_dropAt (a b : Nat) (m : Memory) : lookup (dropAt a m) b = if b = a then none else lookup m b := by
  induction m with
  | nil => simp [dropAt, lookup]
  | cons e m ih =>
    obtain ⟨c, w⟩ := e
    by_cases hca : c = a
    · subst hca
      by_cases hb : b = c
      · subst hb; simpa [dropAt] using ih
      · simp [dropAt, ih, hb, lookup, Ne.symm hb]
    · by_cases hcb : c = b
      · subst hcb; simp [dropAt, lookup, hca]
      · simp [dropAt, lookup, hca, hcb, ih]

theorem lookup_insertAt (a : Nat) (v : Byte) (m : Memory) (h : lookup m a = none) (b : Nat) :
    lookup (insertAt a v m) b = if b = a then some v else lookup m b := by
  induction m with
  | nil => simp [insertAt, lookup, eq_comm]
  | cons e m ih =>
    obtain ⟨c, w⟩ := e
    by_cases hca : c = a
    · simp [lookup, hca] at h
    · have h' : lookup m a = none := by simpa [lookup, hca] using h
      by_cases hlt : a < c
      · by_cases hab : a = b
        · subst hab; simp [insertAt, hlt, lookup]
        · simp [insertAt, hlt, lookup, hab, Ne.symm hab]
      · by_cases hcb : c = b
        · subst hcb; simp [insertAt, hlt, lookup, hca]
        · simp [insertAt, hlt, lookup, hcb, ih h']

/-- A read after a write: the value written at the place written, and elsewhere what was there. -/
theorem readByte_putByte (font : Font) (m : Memory) (a : Nat) (v : Byte) (b : Nat) :
    readByte font (putByte (unlistedByte font a) a v m) b = if b = a then v else readByte font m b := by
  unfold readByte putByte
  by_cases hv : v = unlistedByte font a
  · by_cases hb : b = a <;> simp [hv, hb, lookup_dropAt]
  · have hd : lookup (dropAt a m) a = none := by simp [lookup_dropAt]
    by_cases hb : b = a <;> simp [hv, hb, lookup_insertAt _ _ _ hd, lookup_dropAt]

theorem State.byteAt_setByte (s : State) (a : Nat) (v : Byte) (b : Nat) :
    (s.setByte a v).byteAt b = if b = a then v else s.byteAt b :=
  readByte_putByte s.font s.mem a v b

/-! ### The canonical form -/

theorem wfFrom_mono (font : Font) {lo lo' : Nat} (h : lo' ≤ lo) (m : Memory) (hm : wfFrom font lo m = true) :
    wfFrom font lo' m = true := by
  cases m with
  | nil => rfl
  | cons e m =>
    obtain ⟨c, w⟩ := e
    simp [wfFrom] at hm ⊢
    obtain ⟨⟨⟨h1, h2⟩, h3⟩, h4⟩ := hm
    exact ⟨⟨⟨by omega, h2⟩, h3⟩, h4⟩

theorem wfFrom_dropAt (font : Font) (a : Nat) (m : Memory) (lo : Nat) (hm : wfFrom font lo m = true) :
    wfFrom font lo (dropAt a m) = true := by
  induction m generalizing lo with
  | nil => rfl
  | cons e m ih =>
    obtain ⟨c, w⟩ := e
    simp [wfFrom] at hm
    by_cases hca : c = a
    · simp only [dropAt, hca, if_true]
      exact ih lo (wfFrom_mono font (by omega) m hm.2)
    · simp only [dropAt, hca, if_false, wfFrom, ih _ hm.2]
      simp [hm]

theorem wfFrom_insertAt (font : Font) (a : Nat) (v : Byte) (ha : a < memSize) (hv : v ≠ unlistedByte font a)
    (m : Memory) (hn : lookup m a = none) (lo : Nat) (hlo : lo ≤ a) (hm : wfFrom font lo m = true) :
    wfFrom font lo (insertAt a v m) = true := by
  induction m generalizing lo with
  | nil => simp [insertAt, wfFrom, ha, hv, hlo]
  | cons e m ih =>
    obtain ⟨c, w⟩ := e
    have hca : c ≠ a := fun h => by simp [lookup, h] at hn
    have hn' : lookup m a = none := by simpa [lookup, hca] using hn
    simp [wfFrom] at hm
    by_cases hlt : a < c
    · simp only [insertAt, hlt, if_true, wfFrom]
      simp [hlo, ha, hv, hm]
      omega
    · simp only [insertAt, hlt, if_false, wfFrom, ih hn' (c + 1) (by omega) hm.2]
      simp [hm]

/-- A write inside memory keeps the canonical form. -/
theorem memWf_putByte (font : Font) (m : Memory) (a : Nat) (v : Byte) (ha : a < memSize) (hm : memWf font m = true) :
    memWf font (putByte (unlistedByte font a) a v m) = true := by
  unfold putByte memWf
  split
  · exact wfFrom_dropAt font a m 0 hm
  · exact wfFrom_insertAt font a v ha ‹_› _ (by simp [lookup_dropAt]) 0 (by omega) (wfFrom_dropAt font a m 0 hm)

theorem State.memWf_setByte (s : State) (a : Nat) (v : Byte) (ha : a < memSize) (hm : memWf s.font s.mem = true) :
    memWf (s.setByte a v).font (s.setByte a v).mem = true :=
  memWf_putByte s.font s.mem a v ha hm

/-! ### Blocks -/

/-- The bytes of `n` addresses from `a` on. -/
def State.bytesAt (s : State) (a n : Nat) : List Byte := (List.range n).map fun k => s.byteAt (a + k)

/-- A block read inside memory gives its bytes. -/
theorem State.readBytes_ok (s : State) (a n : Nat) (h : a + n ≤ memSize) : s.readBytes a n = .ok (s.bytesAt a n) := by
  induction n generalizing a with
  | zero => rfl
  | succ n ih =>
    have ha : a < memSize := by omega
    simp only [State.readBytes, State.memRead, ha, if_true, ih (a + 1) (by omega), State.bytesAt,
      List.range_succ_eq_map, List.map_cons, List.map_map]
    congr 2
    simp [Function.comp_def, Nat.add_comm, Nat.add_left_comm]

/-- A block read that leaves memory reports the lowest address outside it (R204). -/
theorem State.readBytes_error (s : State) (a n : Nat) (hn : 0 < n) (h : memSize < a + n) :
    s.readBytes a n = .error (.outOfBounds (max a memSize)) := by
  induction n generalizing a with
  | zero => omega
  | succ n ih =>
    by_cases ha : a < memSize
    · have h1 : max (a + 1) memSize = max a memSize := by omega
      simp only [State.readBytes, State.memRead, ha, if_true, ih (a + 1) (by omega) (by omega), h1]
    · have h1 : max a memSize = a := by omega
      simp [State.readBytes, State.memRead, ha, h1]

/-- A block write inside memory stores its bytes. -/
theorem State.writeBytes_ok (s : State) (a : Nat) (bs : List Byte) (h : a + bs.length ≤ memSize) :
    s.writeBytes a bs = .ok (s.setBytes a bs) := by
  induction bs generalizing s a with
  | nil => rfl
  | cons b bs ih =>
    simp only [List.length_cons] at h
    have ha : a < memSize := by omega
    simp only [State.writeBytes, State.memWrite, ha, if_true, State.setBytes]
    exact ih _ _ (by omega)

/-- A block write that leaves memory reports the lowest address outside it and gives no state (R204, R59). -/
theorem State.writeBytes_error (s : State) (a : Nat) (bs : List Byte) (hn : bs ≠ []) (h : memSize < a + bs.length) :
    s.writeBytes a bs = .error (.outOfBounds (max a memSize)) := by
  induction bs generalizing s a with
  | nil => exact absurd rfl hn
  | cons b bs ih =>
    simp only [List.length_cons] at h
    by_cases ha : a < memSize
    · have hb : bs ≠ [] := fun hb => by simp [hb] at h; omega
      have h1 : max (a + 1) memSize = max a memSize := by omega
      simp only [State.writeBytes, State.memWrite, ha, if_true]
      rw [ih _ _ hb (by omega), h1]
    · have h1 : max a memSize = a := by omega
      simp [State.writeBytes, State.memWrite, ha, h1]

/-- What each byte reads as after a block write. -/
theorem State.byteAt_setBytes (s : State) (a : Nat) (bs : List Byte) (b : Nat) :
    (s.setBytes a bs).byteAt b = if a ≤ b ∧ b < a + bs.length then bs.getD (b - a) 0 else s.byteAt b := by
  induction bs generalizing s a with
  | nil =>
    have : ¬ (a ≤ b ∧ b < a) := by omega
    simp [State.setBytes, this]
  | cons c bs ih =>
    simp only [State.setBytes, ih, State.byteAt_setByte, List.length_cons]
    by_cases h1 : a + 1 ≤ b ∧ b < a + 1 + bs.length
    · have h2 : a ≤ b ∧ b < a + (bs.length + 1) := by omega
      obtain ⟨k, rfl⟩ : ∃ k, b = a + 1 + k := ⟨b - (a + 1), by omega⟩
      have h3 : a + 1 + k - a = k + 1 := by omega
      have h4 : a + 1 + k - (a + 1) = k := by omega
      rw [if_pos h1, if_pos h2, h3, h4, List.getD_cons_succ]
    · by_cases hb : b = a
      · subst hb
        have h2 : b ≤ b ∧ b < b + (bs.length + 1) := by omega
        rw [if_neg h1, if_pos rfl, if_pos h2, Nat.sub_self, List.getD_cons_zero]
      · have h2 : ¬ (a ≤ b ∧ b < a + (bs.length + 1)) := by omega
        rw [if_neg h1, if_neg hb, if_neg h2]

/-- A block write changes memory and nothing else. -/
theorem State.setBytes_eq (s : State) (a : Nat) (bs : List Byte) :
    s.setBytes a bs = { s with mem := (s.setBytes a bs).mem } := by
  induction bs generalizing s a with
  | nil => rfl
  | cons b bs ih =>
    simp only [State.setBytes]
    rw [ih (s.setByte a b) (a + 1)]
    rfl

@[simp] theorem State.setBytes_v (s : State) (a : Nat) (bs : List Byte) : (s.setBytes a bs).v = s.v := by
  rw [State.setBytes_eq]
@[simp] theorem State.setBytes_i (s : State) (a : Nat) (bs : List Byte) : (s.setBytes a bs).i = s.i := by
  rw [State.setBytes_eq]
@[simp] theorem State.setBytes_pc (s : State) (a : Nat) (bs : List Byte) : (s.setBytes a bs).pc = s.pc := by
  rw [State.setBytes_eq]
@[simp] theorem State.setBytes_stack (s : State) (a : Nat) (bs : List Byte) : (s.setBytes a bs).stack = s.stack := by
  rw [State.setBytes_eq]
@[simp] theorem State.setBytes_depth (s : State) (a : Nat) (bs : List Byte) : (s.setBytes a bs).depth = s.depth := by
  rw [State.setBytes_eq]
@[simp] theorem State.setBytes_timers (s : State) (a : Nat) (bs : List Byte) :
    (s.setBytes a bs).timers = s.timers := by
  rw [State.setBytes_eq]
@[simp] theorem State.setBytes_fb (s : State) (a : Nat) (bs : List Byte) : (s.setBytes a bs).fb = s.fb := by
  rw [State.setBytes_eq]
@[simp] theorem State.setBytes_font (s : State) (a : Nat) (bs : List Byte) : (s.setBytes a bs).font = s.font := by
  rw [State.setBytes_eq]
@[simp] theorem State.setBytes_inputs (s : State) (a : Nat) (bs : List Byte) :
    (s.setBytes a bs).inputs = s.inputs := by
  rw [State.setBytes_eq]
@[simp] theorem State.setBytes_draws (s : State) (a : Nat) (bs : List Byte) : (s.setBytes a bs).draws = s.draws := by
  rw [State.setBytes_eq]

/-- A block write inside memory keeps the canonical form. -/
theorem State.memWf_setBytes (s : State) (a : Nat) (bs : List Byte) (h : a + bs.length ≤ memSize)
    (hm : memWf s.font s.mem = true) : memWf s.font (s.setBytes a bs).mem = true := by
  induction bs generalizing s a with
  | nil => exact hm
  | cons b bs ih =>
    simp only [List.length_cons] at h
    exact ih (s.setByte a b) (a + 1) (by omega) (s.memWf_setByte a b (by omega) hm)

/-- Placing a word for the fetch keeps the canonical form. -/
theorem State.memWf_placeWord (s : State) (op : Word) (hm : memWf s.font s.mem = true) :
    memWf s.font (s.placeWord op).mem = true := by
  have place_wf : ∀ (u : State) (a : Nat) (b : Byte), memWf u.font u.mem = true →
      memWf (u.place a b).font (u.place a b).mem = true := by
    intro u a b hu
    unfold State.place
    split
    · exact u.memWf_setByte a b ‹_› hu
    · exact hu
  have place_font : ∀ (u : State) (a : Nat) (b : Byte), (u.place a b).font = u.font := by
    intro u a b
    unfold State.place
    split <;> rfl
  have h := place_wf _ (s.pc.toNat + 1) (lowByte op) (place_wf s s.pc.toNat (highByte op) hm)
  rwa [place_font, place_font] at h

/-! ### The register block -/

/-- What each register holds after a block of registers is loaded (R145). -/
theorem State.reg_setRegsFrom (s : State) (k : Nat) (bs : List Byte) (h : k + bs.length ≤ 16) (r : RegIndex) :
    (s.setRegsFrom k bs).reg r =
      if k ≤ r.toNat ∧ r.toNat < k + bs.length then bs.getD (r.toNat - k) 0 else s.reg r := by
  induction bs generalizing s k with
  | nil =>
    have : ¬ (k ≤ r.toNat ∧ r.toNat < k) := by omega
    simp [State.setRegsFrom, this]
  | cons c bs ih =>
    simp only [List.length_cons] at h
    have hk : (BitVec.ofNat 4 k).toNat = k := by simp; omega
    have hkr : (BitVec.ofNat 4 k = r) ↔ k = r.toNat := by rw [← BitVec.toNat_inj, hk]
    simp only [State.setRegsFrom, ih _ (k + 1) (by omega), State.reg_setReg, hkr, List.length_cons]
    by_cases h1 : k + 1 ≤ r.toNat ∧ r.toNat < k + 1 + bs.length
    · have h2 : k ≤ r.toNat ∧ r.toNat < k + (bs.length + 1) := by omega
      obtain ⟨j, hj⟩ : ∃ j, r.toNat = k + 1 + j := ⟨r.toNat - (k + 1), by omega⟩
      have h3 : r.toNat - k = j + 1 := by omega
      have h4 : r.toNat - (k + 1) = j := by omega
      rw [if_pos h1, if_pos h2, h3, h4, List.getD_cons_succ]
    · by_cases hb : k = r.toNat
      · have h2 : k ≤ r.toNat ∧ r.toNat < k + (bs.length + 1) := by omega
        have h3 : r.toNat - k = 0 := by omega
        rw [if_neg h1, if_pos hb, if_pos h2, h3, List.getD_cons_zero]
      · have h2 : ¬ (k ≤ r.toNat ∧ r.toNat < k + (bs.length + 1)) := by omega
        rw [if_neg h1, if_neg hb, if_neg h2]

/-- Loading a block of registers changes the registers and nothing else. -/
theorem State.setRegsFrom_eq (s : State) (k : Nat) (bs : List Byte) :
    s.setRegsFrom k bs = { s with v := (s.setRegsFrom k bs).v } := by
  induction bs generalizing s k with
  | nil => rfl
  | cons b bs ih =>
    simp only [State.setRegsFrom]
    rw [ih (s.setReg (BitVec.ofNat 4 k) b) (k + 1)]
    rfl

/-- The register block `V0`..`Vx` by index (R144). -/
theorem State.regBlock_getD (s : State) (x : RegIndex) (k : Nat) (hk : k ≤ x.toNat) :
    (s.regBlock x).getD k 0 = s.reg (BitVec.ofNat 4 k) := by
  have hx : x.toNat < 16 := x.isLt
  have h1 : k < 16 := by omega
  have h2 : k < x.toNat + 1 := by omega
  simp [State.regBlock, State.reg, List.getD_eq_getElem?_getD, h2, Nat.mod_eq_of_lt h1, h1]

@[simp] theorem State.regBlock_length (s : State) (x : RegIndex) : (s.regBlock x).length = x.toNat + 1 := by
  have hx : x.toNat < 16 := x.isLt
  simp [State.regBlock]
  omega

end Sys2Proof.Machine
end

