-- ==== Sys2Proof/Laws/Step.lean ====
section
/-! SUPPORT. One lemma per shared operation, saying once everything it can do: the call stack, the fetch, the commit, a step, the
events, one flipped pixel. -/

namespace Sys2Proof.Machine

/-! ### The call stack -/

/-- A push: where a slot is free it writes the slot and counts, else it raises `StackOverflow` (R102). -/
theorem State.push_cases (s : State) (w : Word) :
    (∃ h : s.depth.val < 16, s.push w = .ok { s with
      stack := s.stack.set (15 - s.depth.val) w (by omega)
      depth := ⟨s.depth.val + 1, by omega⟩ }) ∨
    (s.depth.val = 16 ∧ s.push w = .error .stackOverflow) := by
  unfold State.push
  by_cases h : s.depth.val < 16
  · exact .inl ⟨h, by simp [h]⟩
  · exact .inr ⟨by omega, by simp [h]⟩

/-- A pop: where the stack holds an entry it moves it to pc and counts down, else it raises `StackUnderflow` (R100). -/
theorem State.pop_cases (s : State) :
    (∃ h : 0 < s.depth.val, s.pop = .ok { s with
      pc := s.stack[16 - s.depth.val]'(by omega)
      depth := ⟨s.depth.val - 1, by omega⟩ }) ∨
    (s.depth.val = 0 ∧ s.pop = .error .stackUnderflow) := by
  unfold State.pop
  by_cases h : 0 < s.depth.val
  · exact .inl ⟨h, by simp [h]⟩
  · exact .inr ⟨by omega, by simp [h]⟩

/-! ### The fetch -/

/-- A fetch inside memory reads the two bytes, high byte first (R57, R74). -/
theorem fetchWord_ok (s : State) (h : s.pc.toNat + 1 < memSize) :
    fetchWord s = .ok (wordOfBytes (s.byteAt s.pc.toNat) (s.byteAt (s.pc.toNat + 1))) := by
  have h0 : s.pc.toNat < memSize := by omega
  simp [fetchWord, State.memRead, h, h0]

/-- A fetch that leaves memory reports the lower address outside it (R74, R204). -/
theorem fetchWord_error (s : State) (h : memSize ≤ s.pc.toNat + 1) :
    fetchWord s = .error (.outOfBounds (max s.pc.toNat memSize)) := by
  by_cases h0 : s.pc.toNat < memSize
  · have h1 : ¬ s.pc.toNat + 1 < memSize := by omega
    have h2 : max s.pc.toNat memSize = s.pc.toNat + 1 := by omega
    simp [fetchWord, State.memRead, h0, h1, h2]
  · have h2 : max s.pc.toNat memSize = s.pc.toNat := by omega
    simp [fetchWord, State.memRead, h0, h2]

/-- A fetch that answers a word stayed inside memory: after it `pc + 2` is at most 0x1000 and does not wrap (R26, R74). -/
theorem fetchInstr_pc (s : State) (i : Instr) (h : fetchInstr s = .ok i) :
    s.pc.toNat + 1 < memSize ∧ s.advancePc.pc.toNat = s.pc.toNat + 2 := by
  have h1 : s.pc.toNat + 1 < memSize := by
    by_contra hn
    simp [fetchInstr, fetchWord_error s (by omega)] at h
  refine ⟨h1, ?_⟩
  simp [memSize] at h1
  simp [BitVec.toNat_add]
  omega

/-- What a successful fetch and decode read (R74, R75). -/
theorem fetchInstr_ok (s : State) (i : Instr) :
    fetchInstr s = .ok i ↔ s.pc.toNat + 1 < memSize ∧
      decodeWord (wordOfBytes (s.byteAt s.pc.toNat) (s.byteAt (s.pc.toNat + 1))) = .ok i := by
  by_cases h : s.pc.toNat + 1 < memSize
  · simp only [fetchInstr, fetchWord_ok s h, decodeOrRaise, h, true_and]
    cases decodeWord (wordOfBytes (s.byteAt s.pc.toNat) (s.byteAt (s.pc.toNat + 1))) <;> simp
  · simp [fetchInstr, fetchWord_error s (by omega), h]

/-! ### The commit and the step -/

theorem commit_next {e : Except Fault State} {t : State} : commit e = .next t ↔ e = .ok t := by
  cases e <;> simp [commit, raise]

theorem commit_fault {e : Except Fault State} {f : Fault} : commit e = .fault f ↔ e = .error f := by
  cases e <;> simp [commit, raise]

theorem commit_not_refused (e : Except Fault State) (r : Refusal) : commit e ≠ .refused r := by
  cases e <;> simp [commit, raise]

/-- Everything a step that answers a next state has done (R74): what landed before it, the fetch, the execute phase from the
advanced pc, the input used up. -/
theorem step_next {s t : State} : step s = .next t ↔
    ∃ i u, fetchInstr s.arrived = .ok i ∧ exec i s.arrived.advancePc = .next u ∧ t = u.consumeInput := by
  unfold step
  cases hf : fetchInstr s.arrived with
  | error f => simp [raise]
  | ok i =>
    cases he : exec i s.arrived.advancePc with
    | next u => simp [finishStep, he, eq_comm]
    | fault f => simp [finishStep, he]
    | refused r => simp [finishStep, he]

/-- The two ways a step ends in an error (R204): in the fetch or decode, or in the instruction's own check. -/
theorem step_fault {s : State} {f : Fault} : step s = .fault f ↔
    fetchInstr s.arrived = .error f ∨
      ∃ i, fetchInstr s.arrived = .ok i ∧ exec i s.arrived.advancePc = .fault f := by
  unfold step
  cases hf : fetchInstr s.arrived with
  | error g => simp [raise]
  | ok i =>
    cases he : exec i s.arrived.advancePc with
    | next u => simp [finishStep, he]
    | fault g => simp [finishStep, he]
    | refused r => simp [finishStep, he]

/-! ### The events -/

theorem Timers.afterAll_append (t : Timers) (es fs : List Event) :
    t.afterAll (es ++ fs) = (t.afterAll es).afterAll fs := by
  induction es generalizing t with
  | nil => rfl
  | cons e es ih => exact ih _

theorem countDown_toNat (b : Byte) : (countDown b).toNat = b.toNat - 1 := by
  have : b.toNat < 256 := b.isLt
  simp [countDown]
  omega

/-! ### One pixel -/

theorem pixel_clearFrame (c : Fin 64) (r : Fin 32) : pixel clearFrame c r = false := by
  simp [pixel, clearFrame, Vector.get]

/-- A flip changes its own pixel and no other (R161). -/
theorem pixel_flipPixel (fb : Frame) (c c' : Fin 64) (r r' : Fin 32) :
    pixel (flipPixel fb c r) c' r' = if c = c' ∧ r = r' then !pixel fb c' r' else pixel fb c' r' := by
  unfold pixel flipPixel
  by_cases hc : c = c'
  · subst hc
    by_cases hr : r = r'
    · subst hr
      simp [Vector.get_eq_getElem, pixel]
    · have : r.val ≠ r'.val := fun h => hr (Fin.ext h)
      simp [Vector.get_eq_getElem, hr, this]
  · have : c.val ≠ c'.val := fun h => hc (Fin.ext h)
    simp [Vector.get_eq_getElem, hc, this]

/-- One sprite bit (R161): it flips its pixel when set, and collides when that pixel was set. -/
theorem pixel_drawBit (d : Drawing) (c c' : Fin 64) (r r' : Fin 32) (bit : Bool) :
    pixel (drawBit d c r bit).fb c' r' =
      (pixel d.fb c' r' ^^ (bit && decide (c = c' ∧ r = r'))) := by
  cases bit
  · simp [drawBit]
  · simp only [drawBit, if_true, pixel_flipPixel]
    by_cases h : c = c' ∧ r = r' <;> simp [h]

theorem coll_drawBit (d : Drawing) (c : Fin 64) (r : Fin 32) (bit : Bool) :
    (drawBit d c r bit).coll = (d.coll || (bit && pixel d.fb c r)) := by
  cases bit <;> simp [drawBit]

end Sys2Proof.Machine
end

