-- ==== Sys2Proof/Laws/Exec.lean ====
section
/-! SUPPORT. For each instruction that can raise an error, everything it can do: when it answers a next state and which, when it
answers an error and which. The other instructions answer a next state by definition. -/

namespace Sys2Proof.Machine

/-- Return (R100). -/
theorem execRet_next {s t : State} : execRet s = .next t ↔
    ∃ h : 0 < s.depth.val, t = { s with
      pc := s.stack[16 - s.depth.val]'(by omega)
      depth := ⟨s.depth.val - 1, by omega⟩ } := by
  unfold execRet
  rcases s.pop_cases with ⟨h, he⟩ | ⟨h, he⟩
  · simp only [he, commit, Host.Outcome.next.injEq]
    exact ⟨fun ht => ⟨h, ht.symm⟩, fun ⟨_, ht⟩ => ht.symm⟩
  · have : ¬ 0 < s.depth.val := by omega
    simp only [he, commit, raise, reduceCtorEq, this, IsEmpty.exists_iff]

theorem execRet_fault {s : State} {f : Fault} : execRet s = .fault f ↔ s.depth.val = 0 ∧ f = .stackUnderflow := by
  unfold execRet
  rcases s.pop_cases with ⟨h, he⟩ | ⟨h, he⟩
  · have : s.depth.val ≠ 0 := by omega
    simp only [he, commit, reduceCtorEq, this, false_and]
  · simp [he, commit, raise, h, eq_comm]

/-- Call (R102). -/
theorem execCall_next {nnn : Addr} {s t : State} : execCall nnn s = .next t ↔
    ∃ h : s.depth.val < 16, t = { s with
      pc := zext16 nnn
      stack := s.stack.set (15 - s.depth.val) s.pc (by omega)
      depth := ⟨s.depth.val + 1, by omega⟩ } := by
  unfold execCall
  rcases s.push_cases s.pc with ⟨h, he⟩ | ⟨h, he⟩
  · simp only [he, State.setPc, Host.Outcome.next.injEq]
    exact ⟨fun ht => ⟨h, ht.symm⟩, fun ⟨_, ht⟩ => ht.symm⟩
  · have : ¬ s.depth.val < 16 := by omega
    simp only [he, raise, reduceCtorEq, this, IsEmpty.exists_iff]

theorem execCall_fault {nnn : Addr} {s : State} {f : Fault} :
    execCall nnn s = .fault f ↔ s.depth.val = 16 ∧ f = .stackOverflow := by
  unfold execCall
  rcases s.push_cases s.pc with ⟨h, he⟩ | ⟨h, he⟩
  · have : s.depth.val ≠ 16 := by omega
    simp only [he, reduceCtorEq, this, false_and]
  · simp [he, raise, h, eq_comm]

/-- Add to index (R141). -/
theorem execAddIVx_next {x : RegIndex} {s t : State} : execAddIVx x s = .next t ↔
    s.i.toNat + (s.reg x).toNat ≤ 0xFFFF ∧ t = s.setI (BitVec.ofNat 16 (s.i.toNat + (s.reg x).toNat)) := by
  unfold execAddIVx
  by_cases h : s.i.toNat + (s.reg x).toNat > 0xFFFF
  · simp only [h, if_true, raise, reduceCtorEq, false_iff]
    omega
  · have h' : s.i.toNat + (s.reg x).toNat ≤ 0xFFFF := by omega
    simp [h, h', eq_comm]

theorem execAddIVx_fault {x : RegIndex} {s : State} {f : Fault} : execAddIVx x s = .fault f ↔
    0xFFFF < s.i.toNat + (s.reg x).toNat ∧ f = .outOfBounds (s.i.toNat + (s.reg x).toNat) := by
  unfold execAddIVx
  by_cases h : s.i.toNat + (s.reg x).toNat > 0xFFFF
  · simp [h, raise, eq_comm]
  · simp [h]

/-- A block store: it stores all its bytes, or raises `OutOfBounds` at the lowest address outside memory. -/
theorem commit_writeBytes_next {s t : State} {a : Nat} {bs : List Byte} (hn : bs ≠ []) :
    commit (s.writeBytes a bs) = .next t ↔ a + bs.length ≤ memSize ∧ t = s.setBytes a bs := by
  by_cases h : a + bs.length ≤ memSize
  · simp [s.writeBytes_ok a bs h, commit, h, eq_comm]
  · simp [s.writeBytes_error a bs hn (by omega), commit, raise, h]

theorem commit_writeBytes_fault {s : State} {f : Fault} {a : Nat} {bs : List Byte} (hn : bs ≠ []) :
    commit (s.writeBytes a bs) = .fault f ↔ memSize < a + bs.length ∧ f = .outOfBounds (max a memSize) := by
  by_cases h : a + bs.length ≤ memSize
  · have h' : ¬ memSize < a + bs.length := by omega
    simp only [s.writeBytes_ok a bs h, commit, h', reduceCtorEq, false_and]
  · have h' : memSize < a + bs.length := by omega
    simp [s.writeBytes_error a bs hn h', commit, raise, h', eq_comm]

theorem bcdDigits_length (v : Byte) : (bcdDigits v).length = 3 := rfl

theorem bcdDigits_ne_nil (v : Byte) : bcdDigits v ≠ [] := by simp [bcdDigits]

theorem regBlock_ne_nil (s : State) (x : RegIndex) : s.regBlock x ≠ [] := fun h => by
  simpa using congrArg List.length h

/-- Store BCD (R143). -/
theorem execLdBVx_next {x : RegIndex} {s t : State} : execLdBVx x s = .next t ↔
    s.indexAddr + 3 ≤ memSize ∧ t = s.setBytes s.indexAddr (bcdDigits (s.reg x)) := by
  rw [execLdBVx, commit_writeBytes_next (bcdDigits_ne_nil _), bcdDigits_length]

theorem execLdBVx_fault {x : RegIndex} {s : State} {f : Fault} : execLdBVx x s = .fault f ↔
    memSize < s.indexAddr + 3 ∧ f = .outOfBounds (max s.indexAddr memSize) := by
  rw [execLdBVx, commit_writeBytes_fault (bcdDigits_ne_nil _), bcdDigits_length]

/-- Store registers (R144). -/
theorem execLdMemVx_next {x : RegIndex} {s t : State} : execLdMemVx x s = .next t ↔
    s.indexAddr + (x.toNat + 1) ≤ memSize ∧ t = s.setBytes s.indexAddr (s.regBlock x) := by
  rw [execLdMemVx, commit_writeBytes_next (regBlock_ne_nil _ _), State.regBlock_length]

theorem execLdMemVx_fault {x : RegIndex} {s : State} {f : Fault} : execLdMemVx x s = .fault f ↔
    memSize < s.indexAddr + (x.toNat + 1) ∧ f = .outOfBounds (max s.indexAddr memSize) := by
  rw [execLdMemVx, commit_writeBytes_fault (regBlock_ne_nil _ _), State.regBlock_length]

/-- Load registers (R145). -/
theorem execLdVxMem_next {x : RegIndex} {s t : State} : execLdVxMem x s = .next t ↔
    s.indexAddr + (x.toNat + 1) ≤ memSize ∧ t = s.setRegsFrom 0 (s.bytesAt s.indexAddr (x.toNat + 1)) := by
  unfold execLdVxMem
  by_cases h : s.indexAddr + (x.toNat + 1) ≤ memSize
  · simp [s.readBytes_ok _ _ h, h, eq_comm]
  · simp [s.readBytes_error s.indexAddr (x.toNat + 1) (by omega) (by omega), raise, h]

theorem execLdVxMem_fault {x : RegIndex} {s : State} {f : Fault} : execLdVxMem x s = .fault f ↔
    memSize < s.indexAddr + (x.toNat + 1) ∧ f = .outOfBounds (max s.indexAddr memSize) := by
  unfold execLdVxMem
  by_cases h : s.indexAddr + (x.toNat + 1) ≤ memSize
  · have h' : ¬ memSize < s.indexAddr + (x.toNat + 1) := by omega
    simp only [s.readBytes_ok _ _ h, h', reduceCtorEq, false_and]
  · have h' : memSize < s.indexAddr + (x.toNat + 1) := by omega
    simp [s.readBytes_error s.indexAddr (x.toNat + 1) (by omega) h', raise, h', eq_comm]

/-- Draw (R162): a sprite of no rows reads nothing. -/
theorem execDrw_next {x y : RegIndex} {n : Nibble} {s t : State} : execDrw x y n s = .next t ↔
    (n.toNat = 0 ∨ s.indexAddr + n.toNat ≤ memSize) ∧
      t = (s.setFb (drawSprite s.fb (s.reg x).toNat (s.reg y).toNat (s.bytesAt s.indexAddr n.toNat)).fb).setReg flagReg
        (flagByte (drawSprite s.fb (s.reg x).toNat (s.reg y).toNat (s.bytesAt s.indexAddr n.toNat)).coll) := by
  unfold execDrw
  by_cases h0 : n.toNat = 0
  · simp [h0, State.readBytes, State.bytesAt, eq_comm]
  · by_cases h : s.indexAddr + n.toNat ≤ memSize
    · simp [s.readBytes_ok _ _ h, h, eq_comm]
    · simp [s.readBytes_error s.indexAddr n.toNat (by omega) (by omega), raise, h, h0]

theorem execDrw_fault {x y : RegIndex} {n : Nibble} {s : State} {f : Fault} : execDrw x y n s = .fault f ↔
    (0 < n.toNat ∧ memSize < s.indexAddr + n.toNat) ∧ f = .outOfBounds (max s.indexAddr memSize) := by
  unfold execDrw
  by_cases h0 : n.toNat = 0
  · simp [h0, State.readBytes]
  · by_cases h : s.indexAddr + n.toNat ≤ memSize
    · have h' : ¬ memSize < s.indexAddr + n.toNat := by omega
      simp only [s.readBytes_ok _ _ h, h', reduceCtorEq, false_and, and_false]
    · have h' : memSize < s.indexAddr + n.toNat := by omega
      have h'' : 0 < n.toNat := by omega
      simp [s.readBytes_error s.indexAddr n.toNat h'' h', raise, h', h'', eq_comm]

end Sys2Proof.Machine
end

