-- ==== Sys2Proof/Laws/PerInstr.lean ====
section
/-! SUPPORT. Per instruction: its word stands in the row of the opcode table that bears its mnemonic
(spec/30_encoding.md R75, R86). -/

/-- The family's statement: the table of R75 has a row with the instruction's mnemonic, and the instruction's word matches it. -/
def Sys2Proof.Laws.TableRow.Statement (i : Sys2Proof.Instr) : Prop :=
  ∃ row ∈ Sys2Proof.opcodeRows, row.mnemonic = i.mnemonic ∧ row.fits (Sys2Proof.encode i) = true

namespace Sys2Proof.Laws.TableRow

theorem cls : Statement (.cls) :=
  ⟨⟨"CLS", 0x00E0, 0xFFFF⟩, by decide, rfl, by decide⟩

theorem ret : Statement (.ret) :=
  ⟨⟨"RET", 0x00EE, 0xFFFF⟩, by decide, rfl, by decide⟩

theorem jp (nnn : Addr) : Statement (.jp nnn) :=
  ⟨⟨"JP", 0x1000, 0xF000⟩, by decide, rfl, decide_eq_true ((packNNN_major _ _).trans (by decide))⟩

theorem call (nnn : Addr) : Statement (.call nnn) :=
  ⟨⟨"CALL", 0x2000, 0xF000⟩, by decide, rfl, decide_eq_true ((packNNN_major _ _).trans (by decide))⟩

theorem seImm (x : RegIndex) (kk : Byte) : Statement (.seImm x kk) :=
  ⟨⟨"SE_IMM", 0x3000, 0xF000⟩, by decide, rfl, decide_eq_true ((packXKK_major _ _ _).trans (by decide))⟩

theorem sneImm (x : RegIndex) (kk : Byte) : Statement (.sneImm x kk) :=
  ⟨⟨"SNE_IMM", 0x4000, 0xF000⟩, by decide, rfl, decide_eq_true ((packXKK_major _ _ _).trans (by decide))⟩

theorem seReg (x y : RegIndex) : Statement (.seReg x y) :=
  ⟨⟨"SE_REG", 0x5000, 0xF00F⟩, by decide, rfl, decide_eq_true ((packXYN_sub _ _ _ _).trans (by decide))⟩

theorem ldImm (x : RegIndex) (kk : Byte) : Statement (.ldImm x kk) :=
  ⟨⟨"LD_IMM", 0x6000, 0xF000⟩, by decide, rfl, decide_eq_true ((packXKK_major _ _ _).trans (by decide))⟩

theorem addImm (x : RegIndex) (kk : Byte) : Statement (.addImm x kk) :=
  ⟨⟨"ADD_IMM", 0x7000, 0xF000⟩, by decide, rfl, decide_eq_true ((packXKK_major _ _ _).trans (by decide))⟩

theorem ldReg (x y : RegIndex) : Statement (.ldReg x y) :=
  ⟨⟨"LD_REG", 0x8000, 0xF00F⟩, by decide, rfl, decide_eq_true ((packXYN_sub _ _ _ _).trans (by decide))⟩

theorem or (x y : RegIndex) : Statement (.or x y) :=
  ⟨⟨"OR", 0x8001, 0xF00F⟩, by decide, rfl, decide_eq_true ((packXYN_sub _ _ _ _).trans (by decide))⟩

theorem and (x y : RegIndex) : Statement (.and x y) :=
  ⟨⟨"AND", 0x8002, 0xF00F⟩, by decide, rfl, decide_eq_true ((packXYN_sub _ _ _ _).trans (by decide))⟩

theorem xor (x y : RegIndex) : Statement (.xor x y) :=
  ⟨⟨"XOR", 0x8003, 0xF00F⟩, by decide, rfl, decide_eq_true ((packXYN_sub _ _ _ _).trans (by decide))⟩

theorem addReg (x y : RegIndex) : Statement (.addReg x y) :=
  ⟨⟨"ADD_REG", 0x8004, 0xF00F⟩, by decide, rfl, decide_eq_true ((packXYN_sub _ _ _ _).trans (by decide))⟩

theorem sub (x y : RegIndex) : Statement (.sub x y) :=
  ⟨⟨"SUB", 0x8005, 0xF00F⟩, by decide, rfl, decide_eq_true ((packXYN_sub _ _ _ _).trans (by decide))⟩

theorem shr (x y : RegIndex) : Statement (.shr x y) :=
  ⟨⟨"SHR", 0x8006, 0xF00F⟩, by decide, rfl, decide_eq_true ((packXYN_sub _ _ _ _).trans (by decide))⟩

theorem subn (x y : RegIndex) : Statement (.subn x y) :=
  ⟨⟨"SUBN", 0x8007, 0xF00F⟩, by decide, rfl, decide_eq_true ((packXYN_sub _ _ _ _).trans (by decide))⟩

theorem shl (x y : RegIndex) : Statement (.shl x y) :=
  ⟨⟨"SHL", 0x800E, 0xF00F⟩, by decide, rfl, decide_eq_true ((packXYN_sub _ _ _ _).trans (by decide))⟩

theorem sneReg (x y : RegIndex) : Statement (.sneReg x y) :=
  ⟨⟨"SNE_REG", 0x9000, 0xF00F⟩, by decide, rfl, decide_eq_true ((packXYN_sub _ _ _ _).trans (by decide))⟩

theorem ldI (nnn : Addr) : Statement (.ldI nnn) :=
  ⟨⟨"LD_I", 0xA000, 0xF000⟩, by decide, rfl, decide_eq_true ((packNNN_major _ _).trans (by decide))⟩

theorem jpV0 (nnn : Addr) : Statement (.jpV0 nnn) :=
  ⟨⟨"JP_V0", 0xB000, 0xF000⟩, by decide, rfl, decide_eq_true ((packNNN_major _ _).trans (by decide))⟩

theorem rnd (x : RegIndex) (kk : Byte) : Statement (.rnd x kk) :=
  ⟨⟨"RND", 0xC000, 0xF000⟩, by decide, rfl, decide_eq_true ((packXKK_major _ _ _).trans (by decide))⟩

theorem drw (x y : RegIndex) (n : Nibble) : Statement (.drw x y n) :=
  ⟨⟨"DRW", 0xD000, 0xF000⟩, by decide, rfl, decide_eq_true ((packXYN_major _ _ _ _).trans (by decide))⟩

theorem skp (x : RegIndex) : Statement (.skp x) :=
  ⟨⟨"SKP", 0xE09E, 0xF0FF⟩, by decide, rfl, decide_eq_true ((packXKK_sub _ _ _).trans (by decide))⟩

theorem sknp (x : RegIndex) : Statement (.sknp x) :=
  ⟨⟨"SKNP", 0xE0A1, 0xF0FF⟩, by decide, rfl, decide_eq_true ((packXKK_sub _ _ _).trans (by decide))⟩

theorem ldVxDt (x : RegIndex) : Statement (.ldVxDt x) :=
  ⟨⟨"LD_VX_DT", 0xF007, 0xF0FF⟩, by decide, rfl, decide_eq_true ((packXKK_sub _ _ _).trans (by decide))⟩

theorem ldVxK (x : RegIndex) : Statement (.ldVxK x) :=
  ⟨⟨"LD_VX_K", 0xF00A, 0xF0FF⟩, by decide, rfl, decide_eq_true ((packXKK_sub _ _ _).trans (by decide))⟩

theorem ldDtVx (x : RegIndex) : Statement (.ldDtVx x) :=
  ⟨⟨"LD_DT_VX", 0xF015, 0xF0FF⟩, by decide, rfl, decide_eq_true ((packXKK_sub _ _ _).trans (by decide))⟩

theorem ldStVx (x : RegIndex) : Statement (.ldStVx x) :=
  ⟨⟨"LD_ST_VX", 0xF018, 0xF0FF⟩, by decide, rfl, decide_eq_true ((packXKK_sub _ _ _).trans (by decide))⟩

theorem addIVx (x : RegIndex) : Statement (.addIVx x) :=
  ⟨⟨"ADD_I_VX", 0xF01E, 0xF0FF⟩, by decide, rfl, decide_eq_true ((packXKK_sub _ _ _).trans (by decide))⟩

theorem ldFVx (x : RegIndex) : Statement (.ldFVx x) :=
  ⟨⟨"LD_F_VX", 0xF029, 0xF0FF⟩, by decide, rfl, decide_eq_true ((packXKK_sub _ _ _).trans (by decide))⟩

theorem ldBVx (x : RegIndex) : Statement (.ldBVx x) :=
  ⟨⟨"LD_B_VX", 0xF033, 0xF0FF⟩, by decide, rfl, decide_eq_true ((packXKK_sub _ _ _).trans (by decide))⟩

theorem ldMemVx (x : RegIndex) : Statement (.ldMemVx x) :=
  ⟨⟨"LD_MEM_VX", 0xF055, 0xF0FF⟩, by decide, rfl, decide_eq_true ((packXKK_sub _ _ _).trans (by decide))⟩

theorem ldVxMem (x : RegIndex) : Statement (.ldVxMem x) :=
  ⟨⟨"LD_VX_MEM", 0xF065, 0xF0FF⟩, by decide, rfl, decide_eq_true ((packXKK_sub _ _ _).trans (by decide))⟩

end Sys2Proof.Laws.TableRow
end

