-- ==== Sys2Proof/Tests/Slice0.lean ====
section
/-! SUPPORT. The model's own tests. Words and expected values are those of spec/95_test_vectors.md (sections 1 and 2) and of the
rules' worked examples. Then one witness per statement with hypotheses. -/

namespace Sys2Proof.Tests
open Sys2Proof.Machine

/-! ### What is well formed -/

/-- K3: a program of 3585 bytes does not fit (R241). -/
theorem test_image_of_3585_bytes_is_refused : imageFits (List.replicate 3585 0xFF) = false := by
  rw [imageFits, List.length_replicate]; decide

/-- K2: 3584 bytes fit (R56). -/
theorem test_image_of_3584_bytes_fits : imageFits (List.replicate 3584 0xFF) = true := by
  rw [imageFits, List.length_replicate]; decide

/-- The check on operands refuses none (R79): the greatest operands of a row are well formed. -/
theorem test_greatest_operands_are_well_formed : Instr.wellFormed (.drw 0xF 0xF 0xF) = true := by decide

/-- A memory that lists an address outside memory, lists what an unlisted address reads as, or is out of order is refused. -/
theorem test_memory_out_of_range_is_refused : memWf referenceFont [(4096, 1)] = false := by decide
theorem test_memory_listing_a_construction_value_is_refused : memWf referenceFont [(0x300, 0)] = false := by decide
theorem test_memory_out_of_order_is_refused : memWf referenceFont [(0x301, 1), (0x300, 1)] = false := by decide

/-! ### Decoding: one word per row, written out from R73 and R75 -/

theorem test_decode_cls : decodeTableWord 16 0x00E0 = some (.cls) := by decide
theorem test_decode_ret : decodeTableWord 16 0x00EE = some (.ret) := by decide
theorem test_decode_jp : decodeTableWord 16 0x1208 = some (.jp 0x208) := by decide
theorem test_decode_call : decodeTableWord 16 0x2206 = some (.call 0x206) := by decide
theorem test_decode_se_imm : decodeTableWord 16 0x3310 = some (.seImm 3 0x10) := by decide
theorem test_decode_sne_imm : decodeTableWord 16 0x4311 = some (.sneImm 3 0x11) := by decide
theorem test_decode_se_reg : decodeTableWord 16 0x5120 = some (.seReg 1 2) := by decide
theorem test_decode_ld_imm : decodeTableWord 16 0x6A42 = some (.ldImm 0xA 0x42) := by decide
theorem test_decode_add_imm : decodeTableWord 16 0x70FF = some (.addImm 0 0xFF) := by decide
theorem test_decode_ld_reg : decodeTableWord 16 0x83F0 = some (.ldReg 3 0xF) := by decide
theorem test_decode_or : decodeTableWord 16 0x8121 = some (.or 1 2) := by decide
theorem test_decode_and : decodeTableWord 16 0x8122 = some (.and 1 2) := by decide
theorem test_decode_xor : decodeTableWord 16 0x8123 = some (.xor 1 2) := by decide
theorem test_decode_add_reg : decodeTableWord 16 0x8F14 = some (.addReg 0xF 1) := by decide
theorem test_decode_sub : decodeTableWord 16 0x8125 = some (.sub 1 2) := by decide
theorem test_decode_shr : decodeTableWord 16 0x8016 = some (.shr 0 1) := by decide
theorem test_decode_subn : decodeTableWord 16 0x8127 = some (.subn 1 2) := by decide
theorem test_decode_shl : decodeTableWord 16 0x812E = some (.shl 1 2) := by decide
theorem test_decode_sne_reg : decodeTableWord 16 0x9120 = some (.sneReg 1 2) := by decide
theorem test_decode_ld_i : decodeTableWord 16 0xA123 = some (.ldI 0x123) := by decide
theorem test_decode_jp_v0 : decodeTableWord 16 0xBF01 = some (.jpV0 0xF01) := by decide
theorem test_decode_rnd : decodeTableWord 16 0xC30F = some (.rnd 3 0x0F) := by decide
theorem test_decode_drw : decodeTableWord 16 0xD125 = some (.drw 1 2 5) := by decide
theorem test_decode_skp : decodeTableWord 16 0xE29E = some (.skp 2) := by decide
theorem test_decode_sknp : decodeTableWord 16 0xE1A1 = some (.sknp 1) := by decide
theorem test_decode_ld_vx_dt : decodeTableWord 16 0xF307 = some (.ldVxDt 3) := by decide
theorem test_decode_ld_vx_k : decodeTableWord 16 0xF30A = some (.ldVxK 3) := by decide
theorem test_decode_ld_dt_vx : decodeTableWord 16 0xF015 = some (.ldDtVx 0) := by decide
theorem test_decode_ld_st_vx : decodeTableWord 16 0xF118 = some (.ldStVx 1) := by decide
theorem test_decode_add_i_vx : decodeTableWord 16 0xF21E = some (.addIVx 2) := by decide
theorem test_decode_ld_f_vx : decodeTableWord 16 0xF129 = some (.ldFVx 1) := by decide
theorem test_decode_ld_b_vx : decodeTableWord 16 0xF033 = some (.ldBVx 0) := by decide
theorem test_decode_ld_mem_vx : decodeTableWord 16 0xF555 = some (.ldMemVx 5) := by decide
theorem test_decode_ld_vx_mem : decodeTableWord 16 0xF265 = some (.ldVxMem 2) := by decide

/-- Illegal words of section 2 (R78). -/
theorem test_decode_illegal_words :
    ([0x5001, 0x0000, 0x0123, 0x00E1, 0x8008, 0x800F, 0x9001, 0xE000, 0xF000, 0xF0FF] : List Nat).map
      (decodeTableWord 16) = List.replicate 10 none := by decide

/-- One byte is no instruction (R70). -/
theorem test_decode_one_byte_is_truncated : decode [0x12] = .error .truncated := by decide

/-- The decoder answers the rest of the bytes; the high byte is first (R57: `[0x60, 0x05, 0x70, 0xFF]`). -/
theorem test_decode_takes_two_bytes :
    decode [0x60, 0x05, 0x70, 0xFF] = .ok (.ldImm 0 5, [0x70, 0xFF]) := by decide

/-! ### One step on a small state -/

/-- A step's input with no event, no key and rand 0 (section 0 of the vectors). -/
def quiet : StepInput := { events := [], key := none, rand := 0 }

/-- The reset state of the vectors: reference font, one quiet input. -/
def base : State := (State.fresh referenceFont).withInputs [quiet]

/-- The same with a key, or a random byte, or events. -/
def withKey (k : Key) (s : State) : State := s.withInputs [{ quiet with key := some k }]
def withRand (r : Byte) (s : State) : State := s.withInputs [{ quiet with rand := r }]
def withEvents (es : List Event) (s : State) : State := s.withInputs [{ quiet with events := es }]

/-- What a step of the word `w` at pc gives: a view of the next state, or the error. -/
def after {α : Type} (w : Nat) (s : State) (view : State → α) : Option α :=
  match step (s.withFetchWord 16 w) with
  | .next t => some (view t)
  | _ => none

def errorOf (w : Nat) (s : State) : Option Fault :=
  match step (s.withFetchWord 16 w) with
  | .fault f => some f
  | _ => none

theorem test_illegal_word : errorOf 0x5001 base = some (.illegalOpcode 0x5001) := by decide
theorem test_fetch_past_memory : errorOf 0x1200 (base.setPc 0xFFF) = some (.outOfBounds 0x1000) := by decide
theorem test_fetch_at_odd_address : after 0x1300 (base.setPc 0x201) (·.pc) = some 0x300 := by decide

theorem test_cls : after 0x00E0 (base.setFb (flipPixel base.fb 63 31)) (fun t => (t.pc, pixel t.fb 63 31)) = some (0x202, false) := by decide
theorem test_ret : after 0x00EE { base with pc := 0x206, depth := 1, stack := base.stack.set 15 0x202 } (fun t => (t.pc, t.sp)) = some (0x202, 15) := by decide
theorem test_jp : after 0x1208 base (fun t => t.pc) = some 0x208 := by decide
theorem test_call : after 0x2400 base (fun t => (t.pc, t.sp, t.slot 15)) = some (0x400, 14, 0x202) := by decide
theorem test_call_last_slot_and_full :
    (after 0x2400 { base with depth := 15 } (fun t => (t.pc, t.sp, t.slot 0)) = some (0x400, -1, 0x202)) ∧
    (errorOf 0x2400 { base with depth := 16 } = some (.stackOverflow)) := by decide
theorem test_se_imm : after 0x3105 (base.setReg 1 5) (fun t => t.pc) = some 0x204 := by decide
theorem test_se_imm_at_the_top : after 0x3000 (base.setPc 0xFFE) (fun t => t.pc) = some 0x1002 := by decide
theorem test_sne_imm : after 0x4105 (base.setReg 1 6) (fun t => t.pc) = some 0x204 := by decide
theorem test_sne_imm_equal : after 0x4105 (base.setReg 1 5) (fun t => t.pc) = some 0x202 := by decide
theorem test_se_reg : after 0x5120 ((base.setReg 1 7).setReg 2 7) (fun t => t.pc) = some 0x204 := by decide
theorem test_se_reg_differ : after 0x5120 ((base.setReg 1 7).setReg 2 8) (fun t => t.pc) = some 0x202 := by decide
theorem test_sne_reg : after 0x9120 ((base.setReg 1 7).setReg 2 8) (fun t => t.pc) = some 0x204 := by decide
theorem test_jp_v0 : after 0xBF01 (base.setReg 0 0xFF) (fun t => t.pc) = some 0x1000 := by decide
theorem test_ld_imm : after 0x6A42 base (fun t => (t.pc, t.reg 0xA)) = some (0x202, 0x42) := by decide
theorem test_add_imm_carry : after 0x70FF (base.setReg 0 5) (fun t => (t.reg 0, t.vf)) = some (0x04, 1) := by decide
theorem test_add_imm_to_vf : after 0x7F01 (base.setReg 0xF 0xFF) (fun t => t.vf) = some 1 := by decide
theorem test_ld_reg : after 0x8010 (base.setReg 1 0x9C) (fun t => t.reg 0) = some 0x9C := by decide
theorem test_or : after 0x8011 (((base.setReg 0 0xF0).setReg 1 0x0F).setReg 0xF 7) (fun t => (t.reg 0, t.vf)) = some (0xFF, 7) := by decide
theorem test_and : after 0x8012 ((base.setReg 0 0xF3).setReg 1 0x3F) (fun t => t.reg 0) = some 0x33 := by decide
theorem test_xor : after 0x8013 ((base.setReg 0 0xFF).setReg 1 0x0F) (fun t => t.reg 0) = some 0xF0 := by decide
theorem test_add_reg : after 0x8014 ((base.setReg 0 0xFF).setReg 1 1) (fun t => (t.reg 0, t.vf)) = some (0x00, 1) := by decide
theorem test_add_reg_to_vf : after 0x8F14 ((base.setReg 0xF 0xFF).setReg 1 2) (fun t => t.vf) = some 1 := by decide
theorem test_sub_borrow : after 0x8015 ((base.setReg 0 3).setReg 1 5) (fun t => (t.reg 0, t.vf)) = some (0xFE, 0) := by decide
theorem test_sub_equal : after 0x8015 ((base.setReg 0 5).setReg 1 5) (fun t => (t.reg 0, t.vf)) = some (0x00, 1) := by decide
theorem test_shr : after 0x8016 ((base.setReg 0 4).setReg 1 0xFF) (fun t => (t.reg 0, t.vf)) = some (0x02, 0) := by decide
theorem test_shr_of_vf : after 0x8F06 (base.setReg 0xF 3) (fun t => t.vf) = some 1 := by decide
theorem test_subn_borrow : after 0x8017 ((base.setReg 0 5).setReg 1 3) (fun t => (t.reg 0, t.vf)) = some (0xFE, 0) := by decide
theorem test_subn : after 0x8017 ((base.setReg 0 3).setReg 1 5) (fun t => (t.reg 0, t.vf)) = some (0x02, 1) := by decide
theorem test_shl : after 0x800E (base.setReg 0 0x81) (fun t => (t.reg 0, t.vf)) = some (0x02, 1) := by decide
theorem test_shl_no_carry : after 0x800E ((base.setReg 0 0x40).setReg 0xF 1) (fun t => (t.reg 0, t.vf)) = some (0x80, 0) := by decide
theorem test_rnd : after 0xC30F (withRand 0xAB base) (fun t => t.reg 3) = some 0x0B := by decide
theorem test_ld_i : after 0xA123 base (fun t => t.i) = some 0x0123 := by decide
theorem test_add_i_vx : after 0xF21E ((base.setI 0xFFF).setReg 2 1) (fun t => t.i) = some 0x1000 := by decide
theorem test_ld_f_vx : after 0xF129 (base.setReg 1 0x0A) (fun t => t.i) = some 0x0032 := by decide
theorem test_ld_f_vx_low_nibble : after 0xF129 (base.setReg 1 0x1F) (fun t => t.i) = some 0x004B := by decide
theorem test_ld_b_vx : after 0xF033 ((base.setI 0x300).setReg 0 234) (fun t => (t.byteAt 0x300, t.byteAt 0x301, t.byteAt 0x302, t.i)) = some (2, 3, 4, 0x300) := by decide
theorem test_ld_mem_vx : after 0xF155 (((base.setI 0x300).setReg 0 1).setReg 1 2) (fun t => (t.byteAt 0x300, t.byteAt 0x301, t.byteAt 0x302)) = some (1, 2, 0) := by decide
theorem test_ld_vx_mem : after 0xF265 ((((base.setI 0x300).setByte 0x300 2).setByte 0x302 4).setReg 3 9) (fun t => (t.reg 0, t.reg 1, t.reg 2, t.reg 3)) = some (2, 0, 4, 9) := by decide
theorem test_drw :
    (after 0xD011 (((((base.setI 0x300).setByte 0x300 0x80).setReg 0 63).setReg 1 31).setFb (flipPixel base.fb 63 31)) (fun t => (pixel t.fb 63 31, t.vf)) = some (false, 1)) ∧
    (after 0xD011 (((base.setI 0x300).setByte 0x300 0xC0).setReg 0 63) (fun t => (pixel t.fb 0 0, pixel t.fb 63 0, pixel t.fb 62 0, t.vf)) = some (true, true, false, 0)) ∧
    (after 0xD010 ((base.setI 0xFFFF).setReg 0xF 1) (fun t => t.vf) = some 0) := by decide
theorem test_skp : after 0xE29E (withKey 7 (base.setReg 2 7)) (fun t => t.pc) = some 0x204 := by decide
theorem test_skp_value_above_0F : after 0xE29E (withKey 7 (base.setReg 2 0x17)) (fun t => t.pc) = some 0x202 := by decide
theorem test_sknp_no_key : after 0xE2A1 (base.setReg 2 7) (fun t => t.pc) = some 0x204 := by decide
theorem test_sknp_key : after 0xE2A1 (withKey 7 (base.setReg 2 7)) (fun t => t.pc) = some 0x202 := by decide
theorem test_ld_vx_dt : after 0xF307 (base.setDt 0x3C) (fun t => t.reg 3) = some 0x3C := by decide
theorem test_ld_vx_k_waits : after 0xF30A base (fun t => t.pc) = some 0x200 := by decide
theorem test_ld_vx_k : after 0xF30A (withKey 0xB base) (fun t => (t.pc, t.reg 3)) = some (0x202, 0x0B) := by decide
theorem test_ld_dt_vx : after 0xF015 (base.setReg 0 0x3C) (fun t => t.timers.dt) = some 0x3C := by decide
theorem test_ld_st_vx : after 0xF118 (base.setReg 1 5) (fun t => (t.timers.st, t.soundActive)) = some (5, true) := by decide
theorem test_ret_empty : errorOf 0x00EE base = some (.stackUnderflow) := by decide
theorem test_add_i_vx_overflow : errorOf 0xF21E ((base.setI 0xFFFF).setReg 2 1) = some (.outOfBounds 0x10000) := by decide
theorem test_ld_b_vx_out : errorOf 0xF033 ((base.setI 0xFFE).setReg 0 234) = some (.outOfBounds 0x1000) := by decide
theorem test_ld_mem_vx_out : errorOf 0xF155 (base.setI 0xFFF) = some (.outOfBounds 0x1000) := by decide
theorem test_ld_vx_mem_out : errorOf 0xF165 (base.setI 0xFFF) = some (.outOfBounds 0x1000) := by decide
theorem test_drw_out : errorOf 0xD012 (base.setI 0xFFF) = some (.outOfBounds 0x1000) := by decide

/-! ### The scheduler and the host's operations (T1 to T11) -/

def timers (dt st : Byte) (run : RunState) : Timers := { dt := dt, st := st, run := run }

theorem test_T1_tick : (timers 2 0 .running).after .tick = timers 1 0 .running := by decide
theorem test_T3_tick : (timers 0xFF 0xFF .running).after .tick = timers 0xFE 0xFE .running := by decide
theorem test_T4_no_tick_while_stopped : (timers 2 2 .stopped).after .tick = timers 2 2 .stopped := by decide
theorem test_T5_start : (timers 5 0 .stopped).after .start = timers 5 0 .running := by decide
theorem test_T7_stop_then_tick : (timers 5 0 .running).afterAll [.stop, .tick, .tick] = timers 4 0 .stopped := by decide
theorem test_T7_stop_then_settle : (timers 5 0 .running).afterAll [.stop, .settle, .tick] = timers 5 0 .stopped := by decide
theorem test_T8_stop_while_stopped : (timers 5 0 .stopped).after .stop = timers 5 0 .stopped := by decide
theorem test_T9_start_while_stopping : (timers 5 0 .stopping).after .start = timers 5 0 .running := by decide

/-- S11: DT = 3, five ticks, then Fx07 reads 0. -/
theorem test_S11_delay_timer :
    after 0xF107 (withEvents [.start, .tick, .tick, .tick, .tick, .tick] (base.setDt 3)) (fun t => t.reg 1) = some 0 := by
  decide

theorem test_T11_snapshot :
    (State.reset.debugSnapshot.pc, State.reset.debugSnapshot.sp, State.reset.debugSnapshot.i) = (0x200, 15, 0) := by decide

/-- K1: the empty program's first step is an error. -/
theorem test_K1_empty_program : step State.reset = .fault (.illegalOpcode 0) := by rfl

/-- The state after a failing call is the state before it, its input used up (R202). -/
theorem test_failing_call_changes_nothing :
    ((stepCall (base.withFetchWord 16 0x5001)).after.pc, (stepCall (base.withFetchWord 16 0x5001)).error) =
      (0x200, some (.illegalOpcode 0x5001)) := by decide

/-- From reset, the instruction placed with `withFetchWord` runs as the very first one. -/
theorem test_first_step_from_reset :
    (match step (State.reset.withFetchWord 16 0x6A42) with
      | .next t => some (t.reg 0xA, t.pc)
      | _ => none) = some (0x42, 0x202) := by decide

/-- Construction copies the program to 0x200 (R56). -/
theorem test_construct_places_the_program :
    (match State.construct referenceFont [0x12, 0x00] with
      | .ok t => some (t.byteAt 0x200, t.byteAt 0x201, t.byteAt 0x202, t.byteAt 0x000)
      | .error _ => none) = some (0x12, 0x00, 0x00, 0xF0) := by decide

/-! ### Witnesses: for each statement with hypotheses, states and operands that meet them, one per clause, at a boundary value where the
clause has one. The names are the statements' own (Certificates/Slice0/Obligations.lean). -/

/-- DecodeInvertsEncode: every operand at its greatest value. -/
theorem test_witness_DecodeInvertsEncode :
    Instr.wellFormed (.jp 0xFFF) = true ∧ Instr.wellFormed (.rnd 0xF 0xFF) = true ∧
    Instr.wellFormed (.drw 0xF 0xF 0xF) = true ∧ Instr.wellFormed .cls = true := by decide

/-- EncodeInvertsDecode: a word with a don't-care `y`. -/
theorem test_witness_EncodeInvertsDecode : decodeWord 0x8FF6 = .ok (.shr 0xF 0xF) := by decide

theorem test_witness_DecodeFollowsTheTable_row :
    (⟨"SKP", 0xE09E, 0xF0FF⟩ : OpcodeRow) ∈ opcodeRows ∧ (0xEF9E : Word) &&& 0xF0FF = 0xE09E ∧
    decodeOrRaise 0xEF9E = .ok (.skp 0xF) := by decide

theorem test_witness_DecodeFollowsTheTable_no_row :
    ∀ row ∈ opcodeRows, (0x8FF8 : Word) &&& row.mask ≠ row.value := by decide

/-- NoWordMatchesTwoRows: the only way two rows match one word. -/
theorem test_witness_NoWordMatchesTwoRows :
    ∃ row ∈ opcodeRows, ∃ row' ∈ opcodeRows, (0x5EF0 : Word) &&& row.mask = row.value ∧ (0x5EF0 : Word) &&& row'.mask = row'.value := by
  decide

/-- StepRunsTheDecodedInstruction: the last word of memory, so that pc is at its greatest. -/
theorem test_witness_StepRunsTheDecodedInstruction :
    (((base.setPc 0xFFE).withFetchWord 16 0x6A42).pc.toNat + 1 < memSize) ∧
    decode [((base.setPc 0xFFE).withFetchWord 16 0x6A42).byteAt 0xFFE, ((base.setPc 0xFFE).withFetchWord 16 0x6A42).byteAt 0xFFF] =
      .ok (.ldImm 0xA 0x42, []) ∧
    Instr.wellFormed (.ldImm 0xA 0x42) = true ∧
    ∃ u, exec (.ldImm 0xA 0x42) ((base.setPc 0xFFE).withFetchWord 16 0x6A42).advancePc = .next u := by
  refine ⟨by decide, by decide, by decide, _, rfl⟩

/-- FetchAndDecodeErrorsInOrder: pc at 0x1000, at 0xFFF, and an illegal word at 0xFFE. -/
theorem test_witness_FetchAndDecodeErrorsInOrder_pc : memSize ≤ (base.setPc 0x1000).pc.toNat := by decide
theorem test_witness_FetchAndDecodeErrorsInOrder_second_byte : (base.setPc 0xFFF).pc.toNat + 1 = memSize := by decide
theorem test_witness_FetchAndDecodeErrorsInOrder_word :
    (base.setPc 0xFFE).pc.toNat + 1 < memSize ∧
    ∀ row ∈ opcodeRows, row.fits (wordOfBytes ((base.setPc 0xFFE).byteAt 0xFFE) ((base.setPc 0xFFE).byteAt 0xFFF)) = false := by
  decide

/-- FailingStepCommitsNothing: a failing step with no event before it. -/
theorem test_witness_FailingStepCommitsNothing :
    step (base.withFetchWord 16 0x00EE) = .fault .stackUnderflow ∧ (base.withFetchWord 16 0x00EE).input.events = [] := by
  refine ⟨rfl, rfl⟩

/-- AnErrorRecursWhateverLandsBetween: the second state has other timers and another key. -/
theorem test_witness_AnErrorRecursWhateverLandsBetween :
    step (base.withFetchWord 16 0x00EE) = .fault .stackUnderflow ∧
    SameErrorInputs (base.withFetchWord 16 0x00EE) (withKey 3 ((base.withFetchWord 16 0x00EE).setDt 9)) := by
  exact ⟨rfl, fun _ => rfl, rfl, rfl, rfl, fun _ => rfl⟩

/-- OnlyTheListedInstructionsRaise: one error of each instruction that has one. -/
theorem test_witness_OnlyTheListedInstructionsRaise :
    exec .ret base = .fault .stackUnderflow ∧ exec (.call 0) { base with depth := 16 } = .fault .stackOverflow ∧
    exec (.addIVx 2) ((base.setI 0xFFFF).setReg 2 1) = .fault (.outOfBounds 0x10000) ∧
    exec (.drw 0 0 1) (base.setI 0x1000) = .fault (.outOfBounds 0x1000) ∧
    exec (.ldBVx 0) (base.setI 0xFFE) = .fault (.outOfBounds 0x1000) ∧
    exec (.ldMemVx 1) (base.setI 0xFFF) = .fault (.outOfBounds 0x1000) ∧
    exec (.ldVxMem 1) (base.setI 0xFFF) = .fault (.outOfBounds 0x1000) := by
  exact ⟨rfl, rfl, rfl, rfl, rfl, rfl, rfl⟩

/-- The reset state of the vectors meets the invariant. -/
theorem base_inv : base.Inv :=
  ⟨rfl, by decide, fun j => by simp [base, State.withInputs, State.fresh, State.slot, Vector.get_eq_getElem]⟩

/-- StepKeepsTheBounds, ConstructionAndEventsMeetTheBounds: a step that stores, from a state that meets the invariant. -/
theorem test_witness_StepKeepsTheBounds :
    (base.withFetchWord 16 0xF155).Inv ∧ ∃ t, step (base.withFetchWord 16 0xF155) = .next t := by
  refine ⟨⟨by decide, by decide, fun j => base_inv.stack_bound j⟩, _, rfl⟩

theorem test_witness_ConstructionAndEventsMeetTheBounds :
    (∃ t, State.construct referenceFont [0x12, 0x00] = .ok t) ∧ base.Inv := ⟨⟨_, rfl⟩, base_inv⟩

/-- CanonicalMemoriesThatReadAlikeAreEqual: a memory with two entries, the last at the greatest address. -/
theorem test_witness_CanonicalMemoriesThatReadAlikeAreEqual :
    memWf referenceFont [(0, 1), (4095, 1)] = true ∧
    ∀ a, readByte referenceFont [(0, 1), (4095, 1)] a = readByte referenceFont [(0, 1), (4095, 1)] a := by
  exact ⟨by decide, fun _ => rfl⟩

/-- ConstructionCopiesTheImageOrFails, ConstructionGivesTheListedValues: 3584 bytes fit and 3585 do not. -/
theorem test_witness_Construction_fits : 0x200 + (List.replicate 3584 (0xFF : Byte)).length ≤ memSize := by
  rw [List.length_replicate]; decide
theorem test_witness_Construction_does_not_fit : memSize < 0x200 + (List.replicate 3585 (0xFF : Byte)).length := by
  rw [List.length_replicate]; decide

/-- TickDecrementsBothTimersClampedAtZero, TicksCountDownToZero, NoTickWhileStopped, AtMostOneTickAfterStopAndStartResumes. -/
theorem test_witness_running : (timers 0 0xFF .running).run = .running ∧ Event.start ∉ [Event.stop, .tick, .settle] := by decide
theorem test_witness_stopped : (timers 5 5 .stopped).run = .stopped ∧ Event.start ∉ [Event.tick, .settle, .stop] := by decide
theorem test_witness_not_running : (timers 5 5 .stopping).run ≠ .running := by decide

/-- The statements over every instruction that answers a next state: one that writes each part of the state. -/
theorem test_witness_next_OnlyTimerInstructionsWriteTimers :
    (∃ t, exec (.ldDtVx 0) base = .next t) ∧ (∃ t, exec (.ldStVx 0) base = .next t) ∧ (∃ t, exec .cls base = .next t) :=
  ⟨⟨_, rfl⟩, ⟨_, rfl⟩, ⟨_, rfl⟩⟩
theorem test_witness_next_NoInstructionReadsSoundTimerOrRun : ∃ t, exec (.ldVxDt 3) (base.setDt 7) = .next t := ⟨_, rfl⟩
theorem test_witness_next_StackPixelsAndIndexAreWrittenOnlyAsListed :
    (∃ t, exec (.call 0x300) base = .next t) ∧ (∃ t, exec (.drw 0 1 5) base = .next t) ∧ (∃ t, exec (.ldI 0x123) base = .next t) :=
  ⟨⟨_, rfl⟩, ⟨_, rfl⟩, ⟨_, rfl⟩⟩
theorem test_witness_next_OnlyTheTwoStoresWriteMemory :
    (∃ t, exec (.ldBVx 0xF) (base.setI 0xFFD) = .next t) ∧ (∃ t, exec (.ldMemVx 0xF) (base.setI 0xFF0) = .next t) ∧
    (∃ t, exec (.ldImm 1 2) base = .next t) := ⟨⟨_, rfl⟩, ⟨_, rfl⟩, ⟨_, rfl⟩⟩
theorem test_witness_next_PcChangesOnlyAsListed :
    (∃ t, step (base.withFetchWord 16 0xBF01) = .next t) ∧ (∃ t, step ((base.setPc 0xFFE).withFetchWord 16 0x3000) = .next t) ∧
    (∃ t, step (base.withFetchWord 16 0xF30A) = .next t) := ⟨⟨_, rfl⟩, ⟨_, rfl⟩, ⟨_, rfl⟩⟩
theorem test_witness_next_VFIsWrittenOnlyAsListed :
    (WritesFlag (.addImm 0xF 1) ∧ ∃ t, exec (.addImm 0xF 1) base = .next t) ∧
    (¬ WritesFlag (.ldVxMem 0xE) ∧ ¬ WritesVFAsDestination (.ldVxMem 0xE) ∧ ∃ t, exec (.ldVxMem 0xE) base = .next t) :=
  ⟨⟨trivial, _, rfl⟩, fun h => h, by simp [WritesVFAsDestination, flagReg], _, rfl⟩
theorem test_witness_next_NoInstructionWritesTheModelFields : ∃ t, exec (.rnd 1 0xFF) base = .next t := ⟨_, rfl⟩

/-- ReturnPopsTheStack: one entry, sixteen entries, none. -/
theorem test_witness_ReturnPopsTheStack :
    (((15 : Fin 16).val : Int) = State.sp { base with depth := 1 } + 1) ∧
    (((0 : Fin 16).val : Int) = State.sp { base with depth := 16 } + 1) ∧ base.sp = 15 := by decide

/-- CallPushesTheReturnAddress: an empty stack, one free slot, none. -/
theorem test_witness_CallPushesTheReturnAddress :
    (((15 : Fin 16).val : Int) = base.sp) ∧ (((0 : Fin 16).val : Int) = State.sp { base with depth := 15 }) ∧
    State.sp { base with depth := 16 } = -1 := by decide

/-- ReturnUndoesCall: the last free slot. -/
theorem test_witness_ReturnUndoesCall : ∃ t, exec (.call 0x300) { base with depth := 15 } = .next t := ⟨_, rfl⟩

/-- SkipOnRegisters: a low nibble that is not 0. -/
theorem test_witness_SkipOnRegisters : (0xF : Nibble) ≠ 0 := by decide

/-- JumpWithOffsetIsNotReduced: the least sum that no fetch can use. -/
theorem test_witness_JumpWithOffsetIsNotReduced : 0xFFF ≤ ((base.setReg 0 0xFF).reg 0).toNat + (0xF00 : Addr).toNat := by decide

/-- AdditionsCarryIntoVF, SubtractionsLeaveNoBorrowInVF, ShiftsDropTheirBitIntoVF: a destination that is not VF, next to it. -/
theorem test_witness_destination_is_not_VF : (0xE : RegIndex) ≠ flagReg := by decide

/-- AddToIndexIsRangeChecked: the sums 0xFFFF and 0x10000. -/
theorem test_witness_AddToIndexIsRangeChecked :
    (((base.setI 0xFFFE).setReg 2 1).i.toNat + (((base.setI 0xFFFE).setReg 2 1).reg 2).toNat ≤ 0xFFFF) ∧
    (0xFFFF < ((base.setI 0xFFFF).setReg 2 1).i.toNat + (((base.setI 0xFFFF).setReg 2 1).reg 2).toNat) := by decide

/-- StoreDecimalDigits: the last byte at 0xFFF, then at 0x1000. -/
theorem test_witness_StoreDecimalDigits :
    (base.setI 0xFFD).i.toNat + 2 < memSize ∧ memSize ≤ (base.setI 0xFFE).i.toNat + 2 := by decide

/-- StoreRegisterBlock, LoadRegisterBlock: the last byte of sixteen at 0xFFF, then at 0x1000. -/
theorem test_witness_register_blocks :
    (base.setI 0xFF0).i.toNat + (0xF : RegIndex).toNat < memSize ∧ memSize ≤ (base.setI 0xFF1).i.toNat + (0xF : RegIndex).toNat := by
  decide

/-- LoadUndoesStoreOfABlock: the store's own next state is such a `u`. -/
theorem test_witness_LoadUndoesStoreOfABlock :
    ∃ t u : State, exec (.ldMemVx 0xF) (base.setI 0xFF0) = .next t ∧ t.i = u.i ∧ ∀ a, u.byteAt a = t.byteAt a :=
  ⟨_, _, rfl, rfl, fun _ => rfl⟩

/-- NextFetchSeesTheStore: V0 and V1 are stored over the coming word. -/
theorem test_witness_NextFetchSeesTheStore :
    (∃ t, exec (.ldMemVx 1) (base.setI 0x200) = .next t) ∧ 0 + 1 ≤ (1 : RegIndex).toNat ∧
    (base.setI 0x200).pc.toNat = (base.setI 0x200).i.toNat + 0 := ⟨⟨_, rfl⟩, by decide, by decide⟩

/-- DrawIsXorWithTheWrappedSprite, DrawingTwiceRestoresTheFrame: a sprite of 32 rows, and its last row and column. -/
theorem test_witness_sprites : (List.replicate 32 (0xFF : Byte)).length ≤ 32 ∧ 31 < (List.replicate 32 (0xFF : Byte)).length ∧ 7 < 8 := by
  decide

/-- DrawReadsTheSpriteAtTheIndex: no rows from anywhere, fifteen rows that just fit, and that just do not. -/
theorem test_witness_DrawReadsTheSpriteAtTheIndex :
    (0 : Nibble).toNat = 0 ∧ (base.setI 0xFF1).i.toNat + (0xF : Nibble).toNat ≤ memSize ∧
    0 < (0xF : Nibble).toNat ∧ memSize < (base.setI 0xFF2).i.toNat + (0xF : Nibble).toNat := by decide

/-- SkipOnKey, KeyWaitRewindsOrReads: no key, a key, and a register above 0x0F. -/
theorem test_witness_keys :
    base.key = none ∧ (withKey 0xF base).key = some 0xF ∧ ((base.setReg 2 0x10).reg 2).toNat > 0x0F := by decide

end Sys2Proof.Tests
end

