-- ==== Sys2Proof/Proofs/Scope.lean ====
section
/-! PROOFS. What no instruction writes (O31: spec/00_scope.md R8, R9, spec/10_state.md R38), and what a failing step leaves as it
was (O10: R14, R202). -/

namespace Sys2Proof.Machine

/-! ### Each state update keeps the model's own fields -/

variable (s : State)

theorem sameModelFields_setReg (x : RegIndex) (b : Byte) : SameModelFields s (s.setReg x b) := ⟨rfl, rfl, rfl⟩

theorem sameModelFields_setRegFlag (x : RegIndex) (b c : Byte) : SameModelFields s (s.setRegFlag x b c) := ⟨rfl, rfl, rfl⟩

theorem sameModelFields_setPc (w : Word) : SameModelFields s (s.setPc w) := ⟨rfl, rfl, rfl⟩

theorem sameModelFields_setI (w : Word) : SameModelFields s (s.setI w) := ⟨rfl, rfl, rfl⟩

theorem sameModelFields_setDt (b : Byte) : SameModelFields s (s.setDt b) := ⟨rfl, rfl, rfl⟩

theorem sameModelFields_setSt (b : Byte) : SameModelFields s (s.setSt b) := ⟨rfl, rfl, rfl⟩

theorem sameModelFields_setFb (fb : Frame) : SameModelFields s (s.setFb fb) := ⟨rfl, rfl, rfl⟩

theorem sameModelFields_skipIf (b : Bool) : SameModelFields s (s.skipIf b) :=
  ⟨s.skipIf_font b, s.skipIf_inputs b, s.skipIf_draws b⟩

theorem sameModelFields_setBytes (a : Nat) (bs : List Byte) : SameModelFields s (s.setBytes a bs) :=
  ⟨s.setBytes_font a bs, s.setBytes_inputs a bs, s.setBytes_draws a bs⟩

theorem sameModelFields_setRegsFrom (k : Nat) (bs : List Byte) : SameModelFields s (s.setRegsFrom k bs) := by
  rw [State.setRegsFrom_eq]
  exact ⟨rfl, rfl, rfl⟩

/-! ### Each instruction keeps the model's own fields -/

variable {s} {t u : State}

/-- An outcome that is a next state `u` by definition keeps the fields when `u` does. -/
theorem SameModelFields.of_next (hu : SameModelFields s u) (h : (.next u : Result) = .next t) : SameModelFields s t :=
  Host.Outcome.next.inj h ▸ hu

/-- The key wait writes pc or a register, as the key input decides (R184). -/
theorem sameModelFields_execLdVxK {x : RegIndex} (h : execLdVxK x s = .next t) : SameModelFields s t := by
  refine .of_next ?_ h
  cases s.key with
  | none => exact sameModelFields_setPc s _
  | some k => exact sameModelFields_setReg s _ _

/-- The cases are grouped by the state update that the instruction makes; those that can raise an error go through the lemma that
says what their next state is. -/
theorem exec_keeps_modelFields (i : Instr) (h : exec i s = .next t) : SameModelFields s t := by
  cases i
  case seImm | sneImm | seReg | sneReg | skp | sknp => exact .of_next (sameModelFields_skipIf s _) h
  case jp | jpV0 => exact .of_next (sameModelFields_setPc s _) h
  case ldImm | ldReg | or | and | xor | rnd | ldVxDt => exact .of_next (sameModelFields_setReg s _ _) h
  case addImm | addReg | sub | subn | shr | shl => exact .of_next (sameModelFields_setRegFlag s _ _ _) h
  case ldI | ldFVx => exact .of_next (sameModelFields_setI s _) h
  case cls => exact .of_next (sameModelFields_setFb s _) h
  case ldDtVx => exact .of_next (sameModelFields_setDt s _) h
  case ldStVx => exact .of_next (sameModelFields_setSt s _) h
  case ldVxK => exact sameModelFields_execLdVxK h
  case ret =>
    obtain ⟨-, rfl⟩ := execRet_next.mp h
    exact ⟨rfl, rfl, rfl⟩
  case call =>
    obtain ⟨-, rfl⟩ := execCall_next.mp h
    exact ⟨rfl, rfl, rfl⟩
  case addIVx =>
    obtain ⟨-, rfl⟩ := execAddIVx_next.mp h
    exact sameModelFields_setI s _
  case ldBVx =>
    obtain ⟨-, rfl⟩ := execLdBVx_next.mp h
    exact sameModelFields_setBytes s _ _
  case ldMemVx =>
    obtain ⟨-, rfl⟩ := execLdMemVx_next.mp h
    exact sameModelFields_setBytes s _ _
  case ldVxMem =>
    obtain ⟨-, rfl⟩ := execLdVxMem_next.mp h
    exact sameModelFields_setRegsFrom s _ _
  case drw =>
    obtain ⟨-, rfl⟩ := execDrw_next.mp h
    exact ⟨rfl, rfl, rfl⟩

/-! ### A failing call -/

/-- A call whose step fails reports the error and leaves the state in which the step ran, the input used up (R200, R202). -/
theorem stepCall_of_step_fault {f : Fault} (h : step s = .fault f) :
    stepCall s = { error := some f, after := s.arrived.consumeInput } := by
  simp only [stepCall, h]

variable (s) in
/-- Events touch the timers only, and using up the input touches the model's own fields only (R205, R38). -/
theorem sameButTimers_arrived_consumeInput : SameButTimers s s.arrived.consumeInput := by
  have hfb : s.arrived.consumeInput.fb = s.fb := s.arrived.consumeInput_fb
  exact ⟨s.arrived.consumeInput_reg, s.arrived.consumeInput_i, s.arrived.consumeInput_pc, s.arrived.consumeInput_byteAt,
    ⟨s.arrived.consumeInput_sp, s.arrived.consumeInput_slot⟩, fun c r => by rw [hfb], s.arrived.consumeInput_font⟩

variable (s) in
theorem timers_arrived_consumeInput : s.arrived.consumeInput.timers = s.timers.afterAll s.input.events := by
  rw [State.consumeInput_timers, State.arrived_timers]

end Sys2Proof.Machine

namespace Sys2Proof.Proofs
open Sys2Proof.Machine

/-- Settles O31, by cases on the instruction, grouped by the state update it makes. -/
theorem noInstructionWritesTheModelFields : Obligations.NoInstructionWritesTheModelFields :=
  fun i _ _ h => exec_keeps_modelFields i h

/-- Settles O10: the state after a failing call is the one in which the step ran, its input used up. -/
theorem failingStepCommitsNothing : Obligations.FailingStepCommitsNothing := by
  intro s f h
  rw [stepCall_of_step_fault h]
  refine ⟨rfl, sameButTimers_arrived_consumeInput s, timers_arrived_consumeInput s, fun hev => ?_⟩
  calc s.arrived.consumeInput.timers
      = s.timers.afterAll s.input.events := timers_arrived_consumeInput s
    _ = s.timers := by rw [hev, Timers.afterAll]

end Sys2Proof.Proofs
end

/-! PROOFS. What an instruction writes of the state, said once (`Effect`, `exec_effect`), and from it: what only the listed
instructions write (O25, O27, O28, O30: spec/10_state.md R21 to R36), how pc changes (O29: R27) and the invariant (O13, O14, O15:
R26, R100). Then the state after construction (O18, O19: R37, R240), a return (O32: R100), the host's reads (O24: R218, R221, R222),
and that no instruction reads ST or `run` (O26: R31). -/

namespace Sys2Proof.Machine

/-! ### What a block write leaves as it was -/

section Blocks
variable (s : State) (a k : Nat) (bs : List Byte)

@[simp] theorem State.setBytes_reg (r : RegIndex) : (s.setBytes a bs).reg r = s.reg r := by
  rw [State.setBytes_eq]; rfl
@[simp] theorem State.setBytes_slot (j : Fin 16) : (s.setBytes a bs).slot j = s.slot j := by
  rw [State.setBytes_eq]; rfl
@[simp] theorem State.setBytes_sp : (s.setBytes a bs).sp = s.sp := by
  rw [State.setBytes_eq]; rfl

@[simp] theorem State.setRegsFrom_i : (s.setRegsFrom k bs).i = s.i := by
  rw [State.setRegsFrom_eq]
@[simp] theorem State.setRegsFrom_pc : (s.setRegsFrom k bs).pc = s.pc := by
  rw [State.setRegsFrom_eq]
@[simp] theorem State.setRegsFrom_timers : (s.setRegsFrom k bs).timers = s.timers := by
  rw [State.setRegsFrom_eq]
@[simp] theorem State.setRegsFrom_fb : (s.setRegsFrom k bs).fb = s.fb := by
  rw [State.setRegsFrom_eq]
@[simp] theorem State.setRegsFrom_mem : (s.setRegsFrom k bs).mem = s.mem := by
  rw [State.setRegsFrom_eq]
@[simp] theorem State.setRegsFrom_font : (s.setRegsFrom k bs).font = s.font := by
  rw [State.setRegsFrom_eq]
@[simp] theorem State.setRegsFrom_slot (j : Fin 16) : (s.setRegsFrom k bs).slot j = s.slot j := by
  rw [State.setRegsFrom_eq]; rfl
@[simp] theorem State.setRegsFrom_sp : (s.setRegsFrom k bs).sp = s.sp := by
  rw [State.setRegsFrom_eq]; rfl
@[simp] theorem State.setRegsFrom_byteAt (d : Nat) : (s.setRegsFrom k bs).byteAt d = s.byteAt d := by
  rw [State.setRegsFrom_eq]; rfl

/-- A block write leaves every byte outside its own block (R59). -/
theorem sameMemoryOff_setBytes : SameMemoryOff a bs.length s (s.setBytes a bs) := by
  intro b hb
  rw [State.byteAt_setBytes, if_neg (by omega)]

end Blocks

/-! ### The effect of an instruction -/

/-- The state updates of the execute phase, one per way of writing, each with the instructions that make it: the instruction `i`
takes the state `s` to the next state. A written value is kept only where a claim below needs it. -/
inductive Effect (s : State) : Instr → State → Prop
  | skip {i : Instr} (b : Bool) (hi : Skips i) : Effect s i (s.skipIf b)
  | reg {i : Instr} (x : RegIndex) (b : Byte) (hdest : x = flagReg → WritesVFAsDestination i) (hi : ¬ WritesFlag i) :
      Effect s i (s.setReg x b)
  | regFlag {i : Instr} (x : RegIndex) (b : Byte) (c : Bool) (hi : WritesFlag i) : Effect s i (s.setRegFlag x b (flagByte c))
  | load (x : RegIndex) : Effect s (.ldVxMem x) (s.setRegsFrom 0 (s.bytesAt s.indexAddr (x.toNat + 1)))
  | jump (nnn : Addr) : Effect s (.jp nnn) (s.setPc (zext16 nnn))
  | jumpV0 (nnn : Addr) : Effect s (.jpV0 nnn) (s.setPc (BitVec.ofNat 16 ((s.reg 0).toNat + nnn.toNat)))
  | rewind (x : RegIndex) (hkey : s.key = none) : Effect s (.ldVxK x) (s.setPc (s.pc - 2))
  | call (nnn : Addr) (h : s.depth.val < 16) : Effect s (.call nnn) { s with
      pc := zext16 nnn
      stack := s.stack.set (15 - s.depth.val) s.pc (by omega)
      depth := ⟨s.depth.val + 1, by omega⟩ }
  | ret (h : 0 < s.depth.val) : Effect s .ret { s with
      pc := s.stack[16 - s.depth.val]'(by omega)
      depth := ⟨s.depth.val - 1, by omega⟩ }
  | loadIndex (nnn : Addr) : Effect s (.ldI nnn) (s.setI (zext16 nnn))
  | addIndex (x : RegIndex) (w : Word) : Effect s (.addIVx x) (s.setI w)
  | glyphIndex (x : RegIndex) (w : Word) : Effect s (.ldFVx x) (s.setI w)
  | digits (x : RegIndex) (h : s.indexAddr + 3 ≤ memSize) :
      Effect s (.ldBVx x) (s.setBytes s.indexAddr (bcdDigits (s.reg x)))
  | store (x : RegIndex) (h : s.indexAddr + (x.toNat + 1) ≤ memSize) :
      Effect s (.ldMemVx x) (s.setBytes s.indexAddr (s.regBlock x))
  | delay (x : RegIndex) : Effect s (.ldDtVx x) (s.setDt (s.reg x))
  | sound (x : RegIndex) : Effect s (.ldStVx x) (s.setSt (s.reg x))
  | clear : Effect s .cls (s.setFb clearFrame)
  | draw (x y : RegIndex) (n : Nibble) (fb : Frame) (c : Bool) :
      Effect s (.drw x y n) ((s.setFb fb).setReg flagReg (flagByte c))

section
variable {s t u : State} {i : Instr}

theorem Effect.of_next (hu : Effect s i u) (h : (.next u : Result) = .next t) : Effect s i t :=
  Host.Outcome.next.inj h ▸ hu

/-- The key wait rewinds pc or writes its register, as the key input decides (R184). -/
theorem effect_execLdVxK {x : RegIndex} (h : execLdVxK x s = .next t) : Effect s (.ldVxK x) t := by
  refine .of_next ?_ h
  cases hkey : s.key with
  | none => exact .rewind x hkey
  | some k => exact .reg x _ id id

/-- Every instruction that answers a next state has one of the listed effects. The cases are grouped by the effect; those that can
raise an error go through the lemma that says what their next state is. -/
theorem exec_effect (h : exec i s = .next t) : Effect s i t := by
  cases i
  case seImm | sneImm | seReg | sneReg | skp | sknp => exact .of_next (.skip _ trivial) h
  case ldImm | ldReg | or | and | xor | rnd | ldVxDt => exact .of_next (.reg _ _ id id) h
  case addImm | addReg | sub | subn | shr | shl => exact .of_next (.regFlag _ _ _ trivial) h
  case jp => exact .of_next (.jump _) h
  case jpV0 => exact .of_next (.jumpV0 _) h
  case ldVxK => exact effect_execLdVxK h
  case ldI => exact .of_next (.loadIndex _) h
  case ldFVx => exact .of_next (.glyphIndex _ _) h
  case ldDtVx => exact .of_next (.delay _) h
  case ldStVx => exact .of_next (.sound _) h
  case cls => exact .of_next .clear h
  case ret =>
    obtain ⟨hd, rfl⟩ := execRet_next.mp h
    exact .ret hd
  case call =>
    obtain ⟨hd, rfl⟩ := execCall_next.mp h
    exact .call _ hd
  case addIVx =>
    obtain ⟨-, rfl⟩ := execAddIVx_next.mp h
    exact .addIndex _ _
  case ldBVx =>
    obtain ⟨hm, rfl⟩ := execLdBVx_next.mp h
    exact .digits _ hm
  case ldMemVx =>
    obtain ⟨hm, rfl⟩ := execLdMemVx_next.mp h
    exact .store _ hm
  case ldVxMem =>
    obtain ⟨-, rfl⟩ := execLdVxMem_next.mp h
    exact .load _
  case drw =>
    obtain ⟨-, rfl⟩ := execDrw_next.mp h
    exact .draw _ _ _ _ _

/-! ### What an effect leaves as it was -/

theorem Effect.timers (h : Effect s i t) :
    t.timers.run = s.timers.run ∧ ((∀ x, i ≠ .ldDtVx x) → t.timers.dt = s.timers.dt) ∧
      ((∀ x, i ≠ .ldStVx x) → t.timers.st = s.timers.st) := by
  cases h with
  | delay x => exact ⟨rfl, fun hn => absurd rfl (hn x), fun _ => rfl⟩
  | sound x => exact ⟨rfl, fun _ => rfl, fun hn => absurd rfl (hn x)⟩
  | _ => simp

theorem Effect.sameStack (h : Effect s i t) (hcall : ∀ nnn, i ≠ .call nnn) (hret : i ≠ .ret) : SameStack s t := by
  cases h with
  | call nnn => exact absurd rfl (hcall nnn)
  | ret => exact absurd rfl hret
  | _ => simp [SameStack]

theorem Effect.sameFrame (h : Effect s i t) (hcls : i ≠ .cls) (hdrw : ∀ x y n, i ≠ .drw x y n) : SameFrame s t := by
  cases h with
  | clear => exact absurd rfl hcls
  | draw x y n => exact absurd rfl (hdrw x y n)
  | _ => simp [SameFrame]

theorem Effect.index (h : Effect s i t) (hld : ∀ nnn, i ≠ .ldI nnn) (hadd : ∀ x, i ≠ .addIVx x)
    (hglyph : ∀ x, i ≠ .ldFVx x) : t.i = s.i := by
  cases h with
  | loadIndex nnn => exact absurd rfl (hld nnn)
  | addIndex x => exact absurd rfl (hadd x)
  | glyphIndex x => exact absurd rfl (hglyph x)
  | _ => simp

theorem Effect.sameMemory (h : Effect s i t) (hbcd : ∀ x, i ≠ .ldBVx x) (hblock : ∀ x, i ≠ .ldMemVx x) :
    SameMemory s t := by
  cases h with
  | digits x => exact absurd rfl (hbcd x)
  | store x => exact absurd rfl (hblock x)
  | call | ret => exact fun _ => rfl
  | _ => simp [SameMemory]

/-! ### VF -/

variable (s) in
theorem vf_setReg_flagByte (c : Bool) :
    (s.setReg flagReg (flagByte c)).vf = 0 ∨ (s.setReg flagReg (flagByte c)).vf = 1 := by
  rw [State.vf, State.reg_setReg_self]
  cases c
  · exact .inl rfl
  · exact .inr rfl

/-- No skip is a flag writer (R21, R109). -/
theorem Skips.not_writesFlag (h : Skips i) : ¬ WritesFlag i := by
  cases i <;> simp_all [Skips, WritesFlag]

/-- A flag writer leaves its flag in VF, also with VF as its destination (R22); the rest write VF as their destination only. -/
theorem Effect.vf (h : Effect s i t) :
    (WritesFlag i → t.vf = 0 ∨ t.vf = 1) ∧ (¬ WritesFlag i → ¬ WritesVFAsDestination i → t.vf = s.vf) := by
  cases h with
  | skip b hi => exact ⟨fun hf => absurd hf hi.not_writesFlag, fun _ _ => s.skipIf_reg b flagReg⟩
  | reg x b hdest hi => exact ⟨fun hf => absurd hf hi, fun _ hn => s.reg_setReg_ne b fun hx => hn (hdest hx)⟩
  | regFlag x b c hi => exact ⟨fun _ => vf_setReg_flagByte (s.setReg x b) c, fun hn => absurd hi hn⟩
  | draw x y n fb c => exact ⟨fun _ => vf_setReg_flagByte (s.setFb fb) c, fun hn => absurd trivial hn⟩
  | load x =>
    refine ⟨False.elim, fun _ hn => ?_⟩
    have hx : x.toNat ≠ 15 := fun h15 => hn (BitVec.eq_of_toNat_eq h15)
    have hlt : x.toNat < 16 := x.isLt
    have hlen : (s.bytesAt s.indexAddr (x.toNat + 1)).length = x.toNat + 1 := by simp [State.bytesAt]
    have hflag : flagReg.toNat = 15 := rfl
    rw [State.vf, State.reg_setRegsFrom s 0 _ (by omega), if_neg (by omega), State.vf]
  | digits | store => exact ⟨False.elim, fun _ _ => State.setBytes_reg ..⟩
  | _ => exact ⟨False.elim, fun _ _ => rfl⟩

/-! ### pc -/

theorem zext16_toNat (nnn : Addr) : (zext16 nnn).toNat = nnn.toNat := by
  simp [zext16]
  omega

/-- How the execute phase changes pc (R27), where the fetch has advanced it from `p` to `p + 2` inside memory: the sums are those
of the naturals. -/
theorem Effect.pc_cases (h : Effect s i t) {p : Nat} (hp : s.pc.toNat = p + 2) (hfetch : p + 1 < memSize) :
    t.pc.toNat = p + 2 ∨
    (Skips i ∧ t.pc.toNat = p + 4) ∨
    (∃ nnn, (i = .jp nnn ∨ i = .call nnn) ∧ t.pc.toNat = nnn.toNat) ∨
    (∃ nnn, i = .jpV0 nnn ∧ t.pc.toNat = (s.reg 0).toNat + nnn.toNat) ∨
    (i = .ret ∧ ∃ j : Fin 16, (j.val : Int) = s.sp + 1 ∧ t.pc = s.slot j) ∨
    (∃ x, i = .ldVxK x ∧ s.key = none ∧ t.pc.toNat = p) := by
  simp only [memSize] at hfetch
  cases h with
  | skip b hi =>
    cases b with
    | false => exact .inl hp
    | true =>
      refine .inr (.inl ⟨hi, ?_⟩)
      simp [BitVec.toNat_add, hp]
      omega
  | jump nnn => exact .inr (.inr (.inl ⟨nnn, .inl rfl, zext16_toNat nnn⟩))
  | call nnn => exact .inr (.inr (.inl ⟨nnn, .inr rfl, zext16_toNat nnn⟩))
  | jumpV0 nnn =>
    have hv : (s.reg 0).toNat < 256 := (s.reg 0).isLt
    refine .inr (.inr (.inr (.inl ⟨nnn, rfl, ?_⟩)))
    simp
    omega
  | ret hd =>
    refine .inr (.inr (.inr (.inr (.inl ⟨rfl, ⟨16 - s.depth.val, by omega⟩, ?_, rfl⟩))))
    simp [State.sp]
    omega
  | rewind x hkey =>
    refine .inr (.inr (.inr (.inr (.inr ⟨x, rfl, hkey, ?_⟩))))
    simp [BitVec.toNat_sub, hp]
    omega
  | _ => exact .inl (by simpa using hp)

/-! ### A step -/

/-- Events do not change what the coming step fetches (R205). -/
theorem fetchInstr_arrived : fetchInstr s.arrived = fetchInstr s := rfl

/-- A step that answers a next state: what it fetched, from a pc inside memory, and the effect in the execute phase, after which
only the input is used up (R74, R26). -/
theorem step_effect (h : step s = .next t) : ∃ i u, fetchInstr s = .ok i ∧ s.pc.toNat + 1 < memSize ∧
    s.arrived.advancePc.pc.toNat = s.pc.toNat + 2 ∧ Effect s.arrived.advancePc i u ∧ t = u.consumeInput := by
  obtain ⟨i, u, hf, he, rfl⟩ := step_next.mp h
  obtain ⟨hin, hpc⟩ := fetchInstr_pc _ i hf
  exact ⟨i, u, fetchInstr_arrived.symm.trans hf, hin, hpc, exec_effect he, rfl⟩

end

end Sys2Proof.Machine

namespace Sys2Proof.Proofs
open Sys2Proof.Machine

/-- Settles O29: the effect of the fetched instruction, from a pc that the fetch has advanced inside memory. -/
theorem pcChangesOnlyAsListed : Obligations.PcChangesOnlyAsListed := by
  intro s t h
  obtain ⟨i, u, hf, hin, hpc, heff, rfl⟩ := step_effect h
  refine ⟨i, hf, ?_⟩
  rw [State.consumeInput_pc, ← BitVec.toNat_inj (x := u.pc) (y := s.pc)]
  exact heff.pc_cases hpc hin

end Sys2Proof.Proofs

namespace Sys2Proof.Machine

/-! ### The invariant -/

section
variable {s t : State} {i : Instr}

theorem Effect.memWf (h : Effect s i t) (hm : memWf s.font s.mem = true) : memWf t.font t.mem = true := by
  cases h with
  | digits x hd => simpa using s.memWf_setBytes _ _ hd hm
  | store x hd => simpa using s.memWf_setBytes s.indexAddr (s.regBlock x) (by simpa using hd) hm
  | _ => simpa using hm

/-- A call pushes an advanced pc; nothing else writes a slot (R30, R100). -/
theorem Effect.stackBounded (h : Effect s i t) (hpc : s.pc.toNat ≤ 0x1000) (hs : StackBounded s) : StackBounded t := by
  cases h with
  | call nnn hd =>
    intro j
    rw [State.slot, Vector.get_eq_getElem, Vector.getElem_set]
    split
    · exact hpc
    · exact hs j
  | ret => exact hs
  | _ => simpa [StackBounded] using hs

theorem step_keeps_memWf (hm : memWf s.font s.mem = true) (h : step s = .next t) : memWf t.font t.mem = true := by
  obtain ⟨i, u, -, -, -, heff, rfl⟩ := step_effect h
  rw [State.consumeInput_font, State.consumeInput_mem]
  exact heff.memWf hm

theorem step_keeps_stackBounded (hs : StackBounded s) (h : step s = .next t) : StackBounded t := by
  obtain ⟨i, u, -, hin, hpc, heff, rfl⟩ := step_effect h
  simp only [memSize] at hin
  intro j
  rw [State.consumeInput_slot]
  exact heff.stackBounded (by omega) hs j

/-- Every way in which a step changes pc stays at or below 0x10FE (R26): the greatest is a jump to `0xFF + 0xFFF`. -/
theorem step_pc_bound (hs : StackBounded s) (h : step s = .next t) : t.pc.toNat ≤ 0x10FE := by
  obtain ⟨-, -, -, hin, -⟩ := step_effect h
  simp only [memSize] at hin
  obtain ⟨i, -, hpc | ⟨-, hpc⟩ | ⟨nnn, -, hpc⟩ | ⟨nnn, -, hpc⟩ | ⟨-, j, -, hpc⟩ | ⟨x, -, -, hpc⟩⟩ :=
    Proofs.pcChangesOnlyAsListed s t h
  · omega
  · omega
  · omega
  · have hv : (s.reg 0).toNat < 256 := (s.reg 0).isLt
    omega
  · have hj : (s.slot j).toNat ≤ 0x1000 := hs j
    rw [hpc]
    omega
  · rw [hpc]
    omega

theorem step_keeps_inv (hs : s.Inv) (h : step s = .next t) : t.Inv where
  mem_canonical := step_keeps_memWf hs.mem_canonical h
  pc_bound := step_pc_bound hs.stack_bound h
  stack_bound := step_keeps_stackBounded hs.stack_bound h

end

/-! ### Construction -/

theorem fresh_reg (font : Font) (r : RegIndex) : (State.fresh font).reg r = 0 := by
  simp [State.fresh, State.reg]

theorem fresh_slot (font : Font) (j : Fin 16) : (State.fresh font).slot j = 0 := by
  simp [State.fresh, State.slot, Vector.get_eq_getElem]

theorem fresh_inv (font : Font) : (State.fresh font).Inv where
  mem_canonical := rfl
  pc_bound := by simp [State.fresh, progBase]
  stack_bound j := by simp [fresh_slot]

/-- Construction is a copy of the program into fresh memory, where it fits (R56, R240, R241). -/
theorem construct_ok {font : Font} {program : List Byte} {t : State} : State.construct font program = .ok t ↔
    progBase + program.length ≤ memSize ∧ t = (State.fresh font).setBytes progBase program := by
  unfold State.construct imageFits
  by_cases h : progBase + program.length ≤ memSize <;> simp [h, eq_comm]

/-- A block write inside memory keeps the invariant. -/
theorem inv_setBytes {s : State} {a : Nat} {bs : List Byte} (hs : s.Inv) (h : a + bs.length ≤ memSize) :
    (s.setBytes a bs).Inv where
  mem_canonical := by simpa using s.memWf_setBytes a bs h hs.mem_canonical
  pc_bound := by simpa using hs.pc_bound
  stack_bound j := by simpa using hs.stack_bound j

/-- An event touches the timers only, of which the invariant says nothing (R205). -/
theorem event_inv {s : State} (e : Event) (hs : s.Inv) : (s.event e).Inv := ⟨hs.mem_canonical, hs.pc_bound, hs.stack_bound⟩

/-- What memory holds below the program: the font's 80 bytes, and 0x00 on either side of them (R51). -/
theorem unlistedByte_eq (font : Font) {a : Nat} (ha : a < progBase) : unlistedByte font a =
    if font.base.val ≤ a ∧ a < font.base.val + 80 then font.data.toList.getD (a - font.base.val) 0 else 0 := by
  rw [unlistedByte, if_neg (by omega)]
  by_cases hlo : font.base.val ≤ a <;> by_cases hhi : a < font.base.val + 80
  · simp [hlo, hhi]
  · rw [if_pos hlo, if_neg (by omega), List.getD_eq_default]
    simp
    omega
  · rw [if_neg hlo, if_neg (by omega)]
  · rw [if_neg hlo, if_neg (by omega)]

/-- What every address reads as after construction (R51, R240). -/
theorem byteAt_construct (font : Font) (program : List Byte) (a : Nat) :
    ((State.fresh font).setBytes progBase program).byteAt a =
      if 0x200 ≤ a then program.getD (a - 0x200) 0
      else if font.base.val ≤ a ∧ a < font.base.val + 80 then font.data.toList.getD (a - font.base.val) 0
      else 0 := by
  have hfree : (State.fresh font).byteAt a = unlistedByte font a := rfl
  have hbase : progBase = 0x200 := rfl
  rw [State.byteAt_setBytes, hfree]
  by_cases ha : 0x200 ≤ a
  · rw [if_pos ha]
    by_cases hin : a < progBase + program.length
    · rw [if_pos ⟨ha, hin⟩, hbase]
    · rw [if_neg (by omega), unlistedByte, if_pos (hbase ▸ ha), List.getD_eq_default]
      omega
  · rw [if_neg (by omega), if_neg ha, unlistedByte_eq font (by omega)]

/-! ### Another ST and another `run` -/

/-- The state with ST and `run` replaced. -/
def State.withSoundAndRun (s : State) (st : Byte) (run : RunState) : State :=
  { s with timers := { s.timers with st := st, run := run } }

section
variable {s t : State} {i : Instr} (st : Byte) (run : RunState)

variable (s) in
theorem sameButTimers_withSoundAndRun : SameButTimers s (s.withSoundAndRun st run) :=
  ⟨fun _ => rfl, rfl, rfl, fun _ => rfl, ⟨rfl, fun _ => rfl⟩, fun _ _ => rfl, rfl⟩

variable (s) in
theorem skipIf_withSoundAndRun (b : Bool) :
    (s.withSoundAndRun st run).skipIf b = (s.skipIf b).withSoundAndRun st run := by
  cases b <;> rfl

variable (s) in
theorem setBytes_withSoundAndRun (a : Nat) (bs : List Byte) :
    (s.withSoundAndRun st run).setBytes a bs = (s.setBytes a bs).withSoundAndRun st run := by
  induction bs generalizing s a with
  | nil => rfl
  | cons b bs ih => exact ih (s.setByte a b) (a + 1)

variable (s) in
theorem setRegsFrom_withSoundAndRun (k : Nat) (bs : List Byte) :
    (s.withSoundAndRun st run).setRegsFrom k bs = (s.setRegsFrom k bs).withSoundAndRun st run := by
  induction bs generalizing s k with
  | nil => rfl
  | cons b bs ih => exact ih (s.setReg (BitVec.ofNat 4 k) b) (k + 1)

/-- From the state with another ST and `run` an instruction answers the same next state, up to ST; `run` is as it was given. The
errors of the instructions that can raise one do not depend on the timers. -/
theorem exec_withSoundAndRun (h : exec i s = .next t) :
    ∃ st', exec i (s.withSoundAndRun st run) = .next (t.withSoundAndRun st' run) := by
  cases i
  case ldStVx x =>
    cases h
    exact ⟨s.reg x, rfl⟩
  case seImm | sneImm | seReg | sneReg | skp | sknp =>
    cases h
    exact ⟨st, congrArg _ (skipIf_withSoundAndRun s st run _)⟩
  case ldVxK =>
    cases h
    refine ⟨st, congrArg Host.Outcome.next ?_⟩
    have hkey : (s.withSoundAndRun st run).key = s.key := rfl
    rw [hkey]
    cases s.key <;> rfl
  case ret =>
    obtain ⟨hd, rfl⟩ := execRet_next.mp h
    exact ⟨st, execRet_next.mpr ⟨hd, rfl⟩⟩
  case call =>
    obtain ⟨hd, rfl⟩ := execCall_next.mp h
    exact ⟨st, execCall_next.mpr ⟨hd, rfl⟩⟩
  case addIVx =>
    obtain ⟨hm, rfl⟩ := execAddIVx_next.mp h
    exact ⟨st, execAddIVx_next.mpr ⟨hm, rfl⟩⟩
  case ldBVx =>
    obtain ⟨hm, rfl⟩ := execLdBVx_next.mp h
    exact ⟨st, execLdBVx_next.mpr ⟨hm, (setBytes_withSoundAndRun s st run _ _).symm⟩⟩
  case ldMemVx =>
    obtain ⟨hm, rfl⟩ := execLdMemVx_next.mp h
    exact ⟨st, execLdMemVx_next.mpr ⟨hm, (setBytes_withSoundAndRun s st run _ _).symm⟩⟩
  case ldVxMem =>
    obtain ⟨hm, rfl⟩ := execLdVxMem_next.mp h
    exact ⟨st, execLdVxMem_next.mpr ⟨hm, (setRegsFrom_withSoundAndRun s st run _ _).symm⟩⟩
  case drw =>
    obtain ⟨hm, rfl⟩ := execDrw_next.mp h
    exact ⟨st, execDrw_next.mpr ⟨hm, rfl⟩⟩
  case cls | jp | jpV0 | ldImm | addImm | ldReg | or | and | xor | addReg | sub | shr | subn | shl | rnd | ldI | ldFVx | ldVxDt |
      ldDtVx =>
    cases h
    exact ⟨st, rfl⟩

end

end Sys2Proof.Machine

namespace Sys2Proof.Proofs
open Sys2Proof.Machine

/-- Settles O14: memory, pc and the slots each by their own lemma over what a step can do. -/
theorem stepKeepsTheBounds : Obligations.StepKeepsTheBounds :=
  fun _ _ hs h => step_keeps_inv hs h

/-- Settles O15: construction is a block write into the fresh state, and an event touches the timers only. -/
theorem constructionAndEventsMeetTheBounds : Obligations.ConstructionAndEventsMeetTheBounds := by
  refine ⟨fun font program t h => ?_, fun s e hs => event_inv e hs⟩
  obtain ⟨hfits, rfl⟩ := construct_ok.mp h
  exact inv_setBytes (fresh_inv font) hfits

/-- Settles O18: a block write into the fresh state changes memory only; each address is in the program, the font or neither. -/
theorem constructionGivesTheListedValues : Obligations.ConstructionGivesTheListedValues := by
  intro font program hfits
  refine ⟨_, construct_ok.mpr ⟨hfits, rfl⟩, fun r => ?_, ?_, ?_, ?_, fun j => ?_, ?_, fun c r => ?_, ?_,
    byteAt_construct font program⟩
  · rw [State.setBytes_reg, fresh_reg]
  · exact State.setBytes_i ..
  · exact State.setBytes_pc ..
  · exact State.setBytes_sp ..
  · rw [State.setBytes_slot, fresh_slot]
  · exact State.setBytes_timers ..
  · rw [State.setBytes_fb]
    exact pixel_clearFrame c r
  · exact State.setBytes_font ..

/-- Settles O25: of the effects, only `delay` and `sound` write the timers. -/
theorem onlyTimerInstructionsWriteTimers : Obligations.OnlyTimerInstructionsWriteTimers :=
  fun _ _ _ h => (exec_effect h).timers

/-- Settles O26: the execute phase commutes with the replacement of ST and `run`. -/
theorem noInstructionReadsSoundTimerOrRun : Obligations.NoInstructionReadsSoundTimerOrRun := by
  intro i s t st run h
  obtain ⟨st', hu⟩ := exec_withSoundAndRun st run h
  exact ⟨_, hu, sameButTimers_withSoundAndRun t st' run, rfl, rfl⟩

/-- Settles O27: the stack, the pixels and I each by their own lemma over the effects. -/
theorem stackPixelsAndIndexAreWrittenOnlyAsListed : Obligations.StackPixelsAndIndexAreWrittenOnlyAsListed :=
  fun _ _ _ h => ⟨(exec_effect h).sameStack, (exec_effect h).sameFrame, (exec_effect h).index⟩

/-- Settles O28: the two stores are block writes of their own length. -/
theorem onlyTheTwoStoresWriteMemory : Obligations.OnlyTheTwoStoresWriteMemory := by
  intro i s t h
  refine ⟨(exec_effect h).sameMemory, ?_, ?_⟩
  · rintro x rfl
    obtain ⟨-, rfl⟩ := execLdBVx_next.mp h
    exact sameMemoryOff_setBytes s s.indexAddr (bcdDigits (s.reg x))
  · rintro x rfl
    obtain ⟨-, rfl⟩ := execLdMemVx_next.mp h
    simpa using sameMemoryOff_setBytes s s.indexAddr (s.regBlock x)

/-- Settles O30: a flag writer's effect ends with its flag, and any other register written is the instruction's destination. -/
theorem vfIsWrittenOnlyAsListed : Obligations.VFIsWrittenOnlyAsListed :=
  fun _ _ _ h => (exec_effect h).vf

/-- Settles O13: reset is the fresh state of the implementation's font. -/
theorem resetMeetsTheBounds : Obligations.ResetMeetsTheBounds :=
  fresh_inv Config.font

/-- Settles O19: the empty program writes nothing, and the first fetch reads two free bytes, which match no row. -/
theorem resetIsConstructionOfTheEmptyProgram : Obligations.ResetIsConstructionOfTheEmptyProgram :=
  ⟨construct_ok.mpr ⟨by decide, rfl⟩, step_fault.mpr (.inl rfl)⟩

/-- Settles O24: the reads are the fields; SP is in its range because the depth is at most 16. -/
theorem hostReadsShowTheState : Obligations.HostReadsShowTheState := by
  intro s
  have hsp : s.debugSnapshot.sp = 15 - (s.depth.val : Int) := rfl
  have hdepth : s.depth.val < 17 := s.depth.isLt
  refine ⟨fun _ _ => rfl, ?_, fun _ => rfl, rfl, rfl, fun _ => rfl, by omega, by omega, by omega⟩
  simp [State.soundActive, ← BitVec.toNat_inj]

/-- Settles O32: with `SP = 15 - depth`, the slot at SP + 1 is the one that the pop reads. -/
theorem returnPopsTheStack : Obligations.ReturnPopsTheStack := by
  intro s
  have hsp : s.sp = 15 - (s.depth.val : Int) := rfl
  refine ⟨fun j hj => ?_, fun hempty => execRet_fault.mpr ⟨by omega, rfl⟩⟩
  have hd : 0 < s.depth.val := by omega
  have hslot : s.slot j = s.stack[16 - s.depth.val] := by
    rw [State.slot, Vector.get_eq_getElem]
    congr 1
    omega
  refine ⟨_, execRet_next.mpr ⟨hd, rfl⟩, hslot.symm, ?_, fun _ => rfl,
    ⟨fun _ => rfl, rfl, fun _ => rfl, fun _ _ => rfl, rfl, rfl, rfl, rfl⟩⟩
  simp [State.sp]
  omega

end Sys2Proof.Proofs

/-! PROOFS. The decoder on an encoded instruction (O2: spec/30_encoding.md R71, R73, R75), the canonical form of memory (O16:
spec/20_memory.md R50, R51), the copy of the program image (O17: R56), the fetch of a stored word (O52: R57, R64) and the address of
a glyph (O47: R52, R142). -/

namespace Sys2Proof

/-! ### The decoder on an encoded instruction -/

/-- The words of the group `o = 8` are told apart by `n` alone (R76). -/
theorem decodeWord_packXYN_alu (x y : RegIndex) (n : Nibble) :
    decodeWord (packXYN 0x8 x y n) = decodeAlu (packXYN 0x8 x y n) := by
  simp [decodeWord]

/-- The words of the group `o = F` are told apart by `kk` alone (R76). -/
theorem decodeWord_packXKK_misc (x : RegIndex) (kk : Byte) :
    decodeWord (packXKK 0xF x kk) = decodeMisc (packXKK 0xF x kk) := by
  simp [decodeWord]

/-- The cases are grouped by what selects the row of the word: the whole word, the major nibble alone, a fixed sub-opcode beside it,
or the second table of the groups 8 and F. -/
theorem decodeWord_encode (i : Instr) : decodeWord (encode i) = .ok i := by
  cases i
  case cls | ret => decide
  case jp | call | ldI | jpV0 | seImm | sneImm | ldImm | addImm | rnd | drw => simp [encode, decodeWord]
  case seReg | sneReg | skp | sknp => simp [encode, decodeWord]
  case ldReg | or | and | xor | addReg | sub | shr | subn | shl =>
    rw [encode, decodeWord_packXYN_alu]
    simp [decodeAlu]
  case ldVxDt | ldVxK | ldDtVx | ldStVx | addIVx | ldFVx | ldBVx | ldMemVx | ldVxMem =>
    rw [encode, decodeWord_packXKK_misc]
    simp [decodeMisc]

/-- The decoder on bytes reads the word that two bytes make, and leaves the rest (R57, R70). -/
theorem decode_cons_cons {hi lo : Byte} {i : Instr} (h : decodeWord (wordOfBytes hi lo) = .ok i) (rest : List Byte) :
    decode (hi :: lo :: rest) = .ok (i, rest) := by
  simp only [decode, h]

theorem decode_encodeBytes (i : Instr) (rest : List Byte) : decode (encodeBytes i ++ rest) = .ok (i, rest) := by
  refine decode_cons_cons ?_ rest
  rw [wordOfBytes_split, decodeWord_encode]

end Sys2Proof

namespace Sys2Proof.Machine

/-! ### The canonical form -/

section
variable {font : Font} {lo lo' a b : Nat} {v w : Byte} {m m' : Memory}

theorem wfFrom_cons : wfFrom font lo ((a, w) :: m) = true ↔
    lo ≤ a ∧ a < memSize ∧ w ≠ unlistedByte font a ∧ wfFrom font (a + 1) m = true := by
  simp [wfFrom, and_assoc]

theorem readByte_cons : readByte font ((a, w) :: m) b = if a = b then w else readByte font m b := by
  by_cases h : a = b <;> simp [readByte, lookup, h]

/-- A canonical memory lists nothing below its lower bound. -/
theorem readByte_of_lt (hm : wfFrom font lo m = true) (ha : a < lo) : readByte font m a = unlistedByte font a := by
  induction m generalizing lo with
  | nil => rfl
  | cons e m ih =>
    obtain ⟨b, w⟩ := e
    obtain ⟨hlo, -, -, hrest⟩ := wfFrom_cons.mp hm
    rw [readByte_cons, if_neg (by omega)]
    exact ih hrest (by omega)

/-- The first entry of a canonical memory shows: no canonical memory that reads alike starts above it. -/
theorem le_of_readsAlike (hm : wfFrom font lo ((a, v) :: m) = true) (hm' : wfFrom font b m' = true)
    (h : ∀ c, readByte font ((a, v) :: m) c = readByte font m' c) : b ≤ a := by
  obtain ⟨-, -, hv, -⟩ := wfFrom_cons.mp hm
  by_contra hba
  apply hv
  calc v = readByte font ((a, v) :: m) a := by rw [readByte_cons, if_pos rfl]
    _ = readByte font m' a := h a
    _ = unlistedByte font a := readByte_of_lt hm' (by omega)

/-- A canonical memory starts at its first entry. -/
theorem wfFrom_head (hm : wfFrom font lo ((a, v) :: m) = true) : wfFrom font a ((a, v) :: m) = true := by
  obtain ⟨-, hrest⟩ := wfFrom_cons.mp hm
  exact wfFrom_cons.mpr ⟨le_rfl, hrest⟩

/-- Where two memories that read alike start with the same address, the entries are equal and the rests read alike. -/
theorem readsAlike_tail (hm : wfFrom font (a + 1) m = true) (hm' : wfFrom font (a + 1) m' = true)
    (h : ∀ c, readByte font ((a, v) :: m) c = readByte font ((a, w) :: m') c) :
    v = w ∧ ∀ c, readByte font m c = readByte font m' c := by
  refine ⟨by simpa [readByte_cons] using h a, fun c => ?_⟩
  by_cases hc : a = c
  · rw [readByte_of_lt hm (by omega), readByte_of_lt hm' (by omega)]
  · simpa [readByte_cons, hc] using h c

theorem eq_of_readsAlike (hm : wfFrom font lo m = true) (hm' : wfFrom font lo' m' = true)
    (h : ∀ c, readByte font m c = readByte font m' c) : m = m' := by
  induction m generalizing lo lo' m' with
  | nil =>
    cases m' with
    | nil => rfl
    | cons e' m' =>
      have : e'.1 + 1 ≤ e'.1 := le_of_readsAlike (m' := []) hm' rfl fun c => (h c).symm
      omega
  | cons e m ih =>
    obtain ⟨a, v⟩ := e
    cases m' with
    | nil =>
      have : a + 1 ≤ a := le_of_readsAlike (m' := []) hm rfl h
      omega
    | cons e' m' =>
      obtain ⟨b, w⟩ := e'
      obtain rfl : a = b := le_antisymm (le_of_readsAlike hm' (wfFrom_head hm) fun c => (h c).symm)
        (le_of_readsAlike hm (wfFrom_head hm') h)
      obtain ⟨-, -, -, hrest⟩ := wfFrom_cons.mp hm
      obtain ⟨-, -, -, hrest'⟩ := wfFrom_cons.mp hm'
      obtain ⟨rfl, htail⟩ := readsAlike_tail hrest hrest' h
      rw [ih hrest hrest' htail]

end

/-! ### Construction of an image that does not fit -/

/-- An image that reaches beyond memory gives no machine (R56, R241). -/
theorem construct_error {font : Font} {program : List Byte} (h : memSize < progBase + program.length) :
    State.construct font program = .error (.outOfBounds memSize) := by
  have hfits : imageFits program = false := decide_eq_false (by omega)
  rw [State.construct, hfits]
  rfl

/-! ### A stored register block -/

/-- What the block `V0`..`Vx` stored at `I` reads as (R144). -/
theorem State.byteAt_setBytes_regBlock (s : State) (x : RegIndex) {k : Nat} (hk : k ≤ x.toNat) :
    (s.setBytes s.indexAddr (s.regBlock x)).byteAt (s.indexAddr + k) = s.reg (BitVec.ofNat 4 k) := by
  rw [State.byteAt_setBytes, State.regBlock_length, if_pos (by omega), Nat.add_sub_cancel_left, s.regBlock_getD x k hk]

/-! ### The glyph address -/

/-- The glyph address is the exact sum: it is below 0x200 and so does not wrap (R52, R142). -/
theorem glyphAddr_toNat (font : Font) (v : Byte) :
    (glyphAddr font v).toNat = font.base.val + 5 * (v.toNat % 16) := by
  have hnibble : (v &&& 0x0F).toNat = v.toNat % 16 := by
    rw [BitVec.toNat_and]
    exact Nat.and_two_pow_sub_one_eq_mod v.toNat 4
  have hbase : font.base.val < 433 := font.base.isLt
  rw [glyphAddr, hnibble, glyphBytes, BitVec.toNat_ofNat]
  omega

/-- A write to I writes nothing else (R25). -/
theorem onlyIndex_setI (s : State) (w : Word) : OnlyIndex s (s.setI w) :=
  ⟨s.setI_reg w, s.setI_pc w, s.setI_byteAt w, ⟨s.setI_sp w, s.setI_slot w⟩, fun _ _ => rfl, s.setI_timers w,
    sameModelFields_setI s w⟩

end Sys2Proof.Machine

namespace Sys2Proof.Proofs
open Sys2Proof.Machine

/-- Settles O2, by cases on the instruction, grouped by what selects the row of its word. -/
theorem decodeInvertsEncode : Obligations.DecodeInvertsEncode :=
  fun i _ => ⟨decodeWord_encode i, decode_encodeBytes i⟩

/-- Settles O16, by induction on the lists: the first entries stand at the same address, since each shows in what is read. -/
theorem canonicalMemoriesThatReadAlikeAreEqual : Obligations.CanonicalMemoriesThatReadAlikeAreEqual :=
  fun _ _ _ hm hm' h => eq_of_readsAlike hm hm' h

/-- Settles O17: construction is a block write of the image where it fits, and an error where it does not. -/
theorem constructionCopiesTheImageOrFails : Obligations.ConstructionCopiesTheImageOrFails := by
  intro font bytes
  refine ⟨fun hfits => ⟨_, construct_ok.mpr ⟨hfits, rfl⟩, fun k hk => ?_⟩, fun hbig => ⟨_, construct_error hbig⟩⟩
  rw [byteAt_construct, if_pos (by omega), Nat.add_sub_cancel_left, List.getD_eq_getElem _ _ hk]

/-- Settles O52: the fetch reads the bytes at pc and pc + 1, which are the entries k and k + 1 of the stored block. -/
theorem nextFetchSeesTheStore : Obligations.NextFetchSeesTheStore := by
  intro s t x k h hk hpc
  obtain ⟨hin, rfl⟩ := execLdMemVx_next.mp h
  have haddr : (s.setBytes s.indexAddr (s.regBlock x)).pc.toNat = s.indexAddr + k := by rw [State.setBytes_pc, hpc]; rfl
  rw [fetchWord_ok _ (by omega), haddr, s.byteAt_setBytes_regBlock x (by omega), Nat.add_assoc,
    s.byteAt_setBytes_regBlock x hk]

/-- Settles O47: the glyph address is the exact sum, and FONT_BASE is at most 0x1B0. -/
theorem glyphAddress : Obligations.GlyphAddress := by
  intro s x
  have hi : (s.setI (glyphAddr s.font (s.reg x))).i.toNat = s.font.base.val + 5 * ((s.reg x).toNat % 16) := by
    rw [State.setI_i, glyphAddr_toNat]
  have hbase : s.font.base.val < 433 := s.font.base.isLt
  exact ⟨_, rfl, hi, by omega, onlyIndex_setI s _⟩

end Sys2Proof.Proofs

/-! PROOFS. The decoder and the table of opcodes on any word (O3, O4, O5, O6: spec/30_encoding.md R71, R73, R75 to R79), the step from
the word it fetches (O7, O8: R74, R204, R215), and some words of each format (O1). -/

namespace Sys2Proof

/-! ### A word is packed from its own fields -/

section
variable {op : Word} {o n : Nibble} {kk : Byte}

theorem packNNN_fields (ho : (fieldO op).toNat = o.toNat) : packNNN o (fieldNNN op) = op := by
  obtain rfl : fieldO op = o := BitVec.eq_of_toNat_eq ho
  exact (BitVec.extractLsb'_append_extractLsb'_eq_extractLsb' rfl).trans BitVec.extractLsb'_eq_self

theorem fieldX_append_fieldKK : (fieldX op ++ fieldKK op : Addr) = fieldNNN op :=
  BitVec.extractLsb'_append_extractLsb'_eq_extractLsb' rfl

theorem fieldY_append_fieldN : (fieldY op ++ fieldN op : Byte) = fieldKK op :=
  BitVec.extractLsb'_append_extractLsb'_eq_extractLsb' rfl

theorem packXKK_fields (ho : (fieldO op).toNat = o.toNat) (hkk : (fieldKK op).toNat = kk.toNat) :
    packXKK o (fieldX op) kk = op := by
  obtain rfl : fieldKK op = kk := BitVec.eq_of_toNat_eq hkk
  rw [packXKK, fieldX_append_fieldKK]
  exact packNNN_fields ho

theorem packXYN_fields (ho : (fieldO op).toNat = o.toNat) (hn : (fieldN op).toNat = n.toNat) :
    packXYN o (fieldX op) (fieldY op) n = op := by
  obtain rfl : fieldN op = n := BitVec.eq_of_toNat_eq hn
  rw [packXYN, fieldY_append_fieldN]
  exact packXKK_fields ho rfl

end

/-! ### The decoder on any word -/

/-- The ranges of illegal words (R78), by the opcode map of R76. -/
def IllegalWord (op : Word) : Prop :=
  (fieldO op = 0x0 ∧ op ≠ 0x00E0 ∧ op ≠ 0x00EE) ∨
  (fieldO op = 0x5 ∧ fieldN op ≠ 0) ∨
  (fieldO op = 0x8 ∧ fieldN op ∈ ([0x8, 0x9, 0xA, 0xB, 0xC, 0xD, 0xF] : List Nibble)) ∨
  (fieldO op = 0x9 ∧ fieldN op ≠ 0) ∨
  (fieldO op = 0xE ∧ fieldKK op ∉ ([0x9E, 0xA1] : List Byte)) ∨
  (fieldO op = 0xF ∧ fieldKK op ∉ ([0x07, 0x0A, 0x15, 0x18, 0x1E, 0x29, 0x33, 0x55, 0x65] : List Byte))

/-- What the decoder can answer on `op`: an instruction whose word is `op`, or the refusal of an illegal word. -/
inductive DecodeAnswer (op : Word) : Except DecodeError Instr → Prop
  | ok (i : Instr) (h : encode i = op) : DecodeAnswer op (.ok i)
  | illegal (h : IllegalWord op) : DecodeAnswer op (.error (.illegalOpcode op))

/-- The group `o = 8`: the case `h_k` is the `k`-th arm of `decodeAlu`, the last one its default. -/
theorem decodeAlu_answer {op : Word} (ho : (fieldO op).toNat = 0x8) : DecodeAnswer op (decodeAlu op) := by
  unfold decodeAlu
  split
  case h_10 =>
    refine .illegal (.inr (.inr (.inl ⟨BitVec.eq_of_toNat_eq ho, ?_⟩)))
    generalize fieldN op = n at *
    revert n
    decide
  all_goals exact .ok _ (packXYN_fields ho ‹_›)

/-- The group `o = F`, in the same way. -/
theorem decodeMisc_answer {op : Word} (ho : (fieldO op).toNat = 0xF) : DecodeAnswer op (decodeMisc op) := by
  unfold decodeMisc
  split
  case h_10 =>
    refine .illegal (.inr (.inr (.inr (.inr (.inr ⟨BitVec.eq_of_toNat_eq ho, ?_⟩)))))
    simp_all [← BitVec.toNat_inj]
  all_goals exact .ok _ (packXKK_fields ho ‹_›)

/-- The case `h_k` is the major nibble `k - 1`. -/
theorem decodeWord_answer (op : Word) : DecodeAnswer op (decodeWord op) := by
  unfold decodeWord
  split
  case h_2 ho | h_3 ho | h_11 ho | h_12 ho => exact .ok _ (packNNN_fields ho)
  case h_4 ho | h_5 ho | h_7 ho | h_8 ho | h_13 ho => exact .ok _ (packXKK_fields ho rfl)
  case h_14 ho => exact .ok _ (packXYN_fields ho rfl)
  case h_9 ho => exact decodeAlu_answer ho
  case h_16 =>
    simp only [imp_false] at *
    exact decodeMisc_answer (by omega)
  case h_1 ho =>
    split_ifs with hcls hret
    · exact .ok _ hcls.symm
    · exact .ok _ hret.symm
    · exact .illegal (.inl ⟨BitVec.eq_of_toNat_eq ho, hcls, hret⟩)
  case h_6 ho =>
    split_ifs with hn
    · exact .ok _ (packXYN_fields ho (congrArg _ hn))
    · exact .illegal (.inr (.inl ⟨BitVec.eq_of_toNat_eq ho, hn⟩))
  case h_10 ho =>
    split_ifs with hn
    · exact .ok _ (packXYN_fields ho (congrArg _ hn))
    · exact .illegal (.inr (.inr (.inr (.inl ⟨BitVec.eq_of_toNat_eq ho, hn⟩))))
  case h_15 ho =>
    split_ifs with hskp hsknp
    · exact .ok _ (packXKK_fields ho (congrArg _ hskp))
    · exact .ok _ (packXKK_fields ho (congrArg _ hsknp))
    · exact .illegal (.inr (.inr (.inr (.inr (.inl ⟨BitVec.eq_of_toNat_eq ho, by simp [hskp, hsknp]⟩)))))

theorem decodeWord_ok_iff {op : Word} {i : Instr} : decodeWord op = .ok i ↔ encode i = op := by
  constructor
  · intro h
    have hans := decodeWord_answer op
    rw [h] at hans
    cases hans with
    | ok _ hi => exact hi
  · rintro rfl
    exact decodeWord_encode i

/-- A word that no range of R78 holds is the word of an instruction. -/
theorem exists_encode_of_not_illegalWord {op : Word} (h : ¬ IllegalWord op) : ∃ i, encode i = op := by
  have hans := decodeWord_answer op
  generalize decodeWord op = answer at hans
  cases hans with
  | ok i hi => exact ⟨i, hi⟩
  | illegal hill => exact absurd hill h

/-! ### The table of opcodes -/

section
variable {op m : Word} {row row' : OpcodeRow}

/-- Two rows that agree on the bits both of them fix are the same row (R77). -/
theorem row_eq_of_agree : ∀ row ∈ opcodeRows, ∀ row' ∈ opcodeRows,
    row.value &&& row'.mask = row'.value &&& row.mask → row = row' := by
  decide

theorem row_unique (hrow : row ∈ opcodeRows) (hrow' : row' ∈ opcodeRows) (h : op &&& row.mask = row.value)
    (h' : op &&& row'.mask = row'.value) : row = row' := by
  refine row_eq_of_agree row hrow row' hrow' ?_
  rw [← h, ← h', BitVec.and_assoc, BitVec.and_assoc, BitVec.and_comm row.mask]

/-- The constructors of `Instr` stand in the order of the rows, so the row of an instruction is the one at its place. -/
theorem row_of_encode (i : Instr) : ∃ row, opcodeRows[i.ctorIdx]? = some row ∧ row.mnemonic = i.mnemonic ∧
    encode i &&& row.mask = row.value := by
  cases i
  case cls | ret => exact ⟨_, rfl, rfl, by decide⟩
  case jp | call | ldI | jpV0 => exact ⟨_, rfl, rfl, packNNN_major _ _⟩
  case seImm | sneImm | ldImm | addImm | rnd => exact ⟨_, rfl, rfl, packXKK_major _ _ _⟩
  case drw => exact ⟨_, rfl, rfl, packXYN_major _ _ _ _⟩
  case seReg | ldReg | or | and | xor | addReg | sub | shr | subn | shl | sneReg =>
    exact ⟨_, rfl, rfl, packXYN_sub _ _ _ _⟩
  case skp | sknp | ldVxDt | ldVxK | ldDtVx | ldStVx | addIVx | ldFVx | ldBVx | ldMemVx | ldVxMem =>
    exact ⟨_, rfl, rfl, packXKK_sub _ _ _⟩

theorem exists_row_of_encode (i : Instr) : ∃ row ∈ opcodeRows, row.mnemonic = i.mnemonic ∧
    encode i &&& row.mask = row.value := by
  obtain ⟨row, hget, hrow⟩ := row_of_encode i
  exact ⟨row, List.mem_of_getElem? hget, hrow⟩

/-- Where a mask keeps all of a field, the field is the same under it. -/
theorem extractLsb'_and_of_allOnes {start len : Nat} (hm : m.extractLsb' start len = BitVec.allOnes len) :
    (op &&& m).extractLsb' start len = op.extractLsb' start len := by
  rw [BitVec.extractLsb'_and, hm, BitVec.and_allOnes]

/-- The fields that the rows fix: the major nibble, and in the groups with illegal words what tells a group's rows apart. -/
theorem rows_fix_fields : ∀ row ∈ opcodeRows, fieldO row.mask = 0xF ∧
    (fieldO row.value = 0x0 → row.mask = 0xFFFF) ∧
    (fieldO row.value ∈ ([0x5, 0x8, 0x9] : List Nibble) → fieldN row.mask = 0xF) ∧
    (fieldO row.value ∈ ([0xE, 0xF] : List Nibble) → fieldKK row.mask = 0xFF) := by
  decide

theorem rowValue_legal : ∀ row ∈ opcodeRows, ¬ IllegalWord row.value := by
  unfold IllegalWord
  decide

/-- The ranges of R78 speak only of fields that the row fixes, so they hold a word that matches it no more than they hold the
row's own value. -/
theorem not_illegalWord_of_row (hrow : row ∈ opcodeRows) (h : op &&& row.mask = row.value) : ¬ IllegalWord op := by
  obtain ⟨hmajor, hword, hn, hkk⟩ := rows_fix_fields row hrow
  have ho : fieldO row.value = fieldO op := h ▸ extractLsb'_and_of_allOnes hmajor
  rw [ho] at hword hn hkk
  have heqWord (h0 : fieldO op = 0x0) : row.value = op := by
    rw [← h, hword h0]
    exact BitVec.and_allOnes
  have heqN (hmem : fieldO op ∈ ([0x5, 0x8, 0x9] : List Nibble)) : fieldN row.value = fieldN op :=
    h ▸ extractLsb'_and_of_allOnes (hn hmem)
  have heqKK (hmem : fieldO op ∈ ([0xE, 0xF] : List Nibble)) : fieldKK row.value = fieldKK op :=
    h ▸ extractLsb'_and_of_allOnes (hkk hmem)
  refine fun hill => rowValue_legal row hrow ?_
  rw [IllegalWord, ho]
  rcases hill with ⟨h0, hop⟩ | ⟨h5, hop⟩ | ⟨h8, hop⟩ | ⟨h9, hop⟩ | ⟨hE, hop⟩ | ⟨hF, hop⟩
  · simpa [h0, heqWord h0] using hop
  · simpa [h5, heqN] using hop
  · simpa [h8, heqN] using hop
  · simpa [h9, heqN] using hop
  · simpa [hE, heqKK] using hop
  · simpa [hF, heqKK] using hop

theorem decodeWord_illegal_iff : decodeWord op = .error (.illegalOpcode op) ↔ IllegalWord op := by
  have hans := decodeWord_answer op
  generalize decodeWord op = answer at hans
  cases hans with
  | ok i hi =>
    obtain ⟨row, hrow, -, hfits⟩ := exists_row_of_encode i
    simp [not_illegalWord_of_row hrow (hi ▸ hfits)]
  | illegal hill => simp [hill]

/-- The words that match a row are those of the instructions with its mnemonic (R75). -/
theorem instr_of_row (hrow : row ∈ opcodeRows) (h : op &&& row.mask = row.value) :
    ∃ i, encode i = op ∧ i.mnemonic = row.mnemonic := by
  obtain ⟨i, rfl⟩ := exists_encode_of_not_illegalWord (not_illegalWord_of_row hrow h)
  obtain ⟨row', hrow', hname, hfits⟩ := exists_row_of_encode i
  obtain rfl := row_unique hrow hrow' h hfits
  exact ⟨i, rfl, hname.symm⟩

end

end Sys2Proof

namespace Sys2Proof.Machine

/-! ### Decode as a step uses it -/

section
variable {op : Word}

theorem decodeOrRaise_ok_iff {i : Instr} : decodeOrRaise op = .ok i ↔ encode i = op := by
  rw [← decodeWord_ok_iff, decodeOrRaise]
  cases decodeWord op <;> simp

/-- A word that matches no row decodes to nothing, since the word of an instruction matches the instruction's row (R75). -/
theorem decodeOrRaise_of_no_row (h : ∀ row ∈ opcodeRows, op &&& row.mask ≠ row.value) :
    decodeOrRaise op = .error (.illegalOpcode op) := by
  rw [decodeOrRaise]
  cases hdec : decodeWord op with
  | error e => rfl
  | ok i =>
    obtain ⟨row, hrow, -, hfits⟩ := exists_row_of_encode i
    exact absurd (decodeWord_ok_iff.mp hdec ▸ hfits) (h row hrow)

end

/-! ### The step from the word it fetches -/

section
variable {s : State} {i : Instr} {f : Fault}

/-- Events do not touch the fetch, so an error of the fetch or of decode is the step's (R204). -/
theorem step_of_fetchInstr_error (h : fetchInstr s = .error f) : step s = .fault f :=
  step_fault.mpr (.inl (fetchInstr_arrived.trans h))

theorem step_of_fetchInstr_ok (h : fetchInstr s = .ok i) : step s = finishStep (exec i s.arrived.advancePc) := by
  rw [step, fetchInstr_arrived, h]

theorem step_of_fetch_outside (h : memSize ≤ s.pc.toNat + 1) : step s = .fault (.outOfBounds (max s.pc.toNat memSize)) :=
  step_of_fetchInstr_error (by rw [fetchInstr, fetchWord_error s h])

theorem fetchInstr_inside (h : s.pc.toNat + 1 < memSize) :
    fetchInstr s = decodeOrRaise (wordOfBytes (s.byteAt s.pc.toNat) (s.byteAt (s.pc.toNat + 1))) := by
  rw [fetchInstr, fetchWord_ok s h]

/-- The decoder on two bytes reads the word they make (R57). -/
theorem decodeWord_of_decode_pair {hi lo : Byte} {rest : List Byte} (h : decode [hi, lo] = .ok (i, rest)) :
    decodeWord (wordOfBytes hi lo) = .ok i := by
  cases hdec : decodeWord (wordOfBytes hi lo) with
  | error e => simp [decode, hdec] at h
  | ok j =>
    rw [decode_cons_cons hdec] at h
    cases h
    rfl

variable (s)

/-- Using up the input of a step touches the model's own fields only (R38). -/
theorem sameButTimers_consumeInput : SameButTimers s s.consumeInput :=
  ⟨s.consumeInput_reg, s.consumeInput_i, s.consumeInput_pc, s.consumeInput_byteAt, ⟨s.consumeInput_sp, s.consumeInput_slot⟩,
    fun c r => by rw [State.consumeInput_fb], s.consumeInput_font⟩

theorem consumeInput_inputs : s.consumeInput.inputs = s.inputs.tail := by
  cases h : s.inputs <;> simp [State.consumeInput, h]

theorem consumeInput_draws : s.consumeInput.draws = if s.inputs = [] then s.draws + 1 else s.draws := by
  cases h : s.inputs <;> simp [State.consumeInput, h]

end

end Sys2Proof.Machine

namespace Sys2Proof.Proofs
open Sys2Proof.Machine

/-- Settles O3, by the decoder's branches: each packs its instruction from the fields of the word. -/
theorem encodeInvertsDecode : Obligations.EncodeInvertsDecode :=
  fun _ _ h => decodeWord_ok_iff.mp h

/-- Settles O4: the words that match a row are those of the instructions with its mnemonic, and decode inverts encode. -/
theorem decodeFollowsTheTable : Obligations.DecodeFollowsTheTable := by
  refine ⟨rfl, fun op row hrow h => ?_, fun op i h => ?_, fun op h => decodeOrRaise_of_no_row h⟩
  · obtain ⟨i, rfl, hname⟩ := instr_of_row hrow h
    have hi : decodeOrRaise (encode i) = .ok i := decodeOrRaise_ok_iff.mpr rfl
    exact ⟨i, hi, hname, fun j hj => Except.ok.inj (hj.symm.trans hi)⟩
  · rw [← decodeOrRaise_ok_iff.mp h]
    exact exists_row_of_encode i

/-- Settles O5: two rows that match one word agree on the bits that both of them fix. -/
theorem noWordMatchesTwoRows : Obligations.NoWordMatchesTwoRows :=
  fun _ _ _ => row_unique

/-- Settles O6: the decoder refuses words of the ranges only, and no word of an instruction lies in one. -/
theorem illegalWordsAreTheListedRanges : Obligations.IllegalWordsAreTheListedRanges :=
  fun _ => decodeWord_illegal_iff

/-- Settles O8, by the place of pc; in memory the word is fetched, and decode refuses it. -/
theorem fetchAndDecodeErrorsInOrder : Obligations.FetchAndDecodeErrorsInOrder := by
  refine fun s => ⟨fun hpc => ?_, fun hpc => ?_, fun hpc hrows => ?_⟩
  · rw [step_of_fetch_outside (by omega), max_eq_left hpc]
  · rw [step_of_fetch_outside (by omega), max_eq_right (by omega)]
  · refine step_of_fetchInstr_error ((fetchInstr_inside hpc).trans (decodeOrRaise_of_no_row fun row hrow => ?_))
    exact of_decide_eq_false (hrows row hrow)

/-- Settles O1: the decoder evaluated on the words. -/
theorem someWordsDecodeAsTheTableSays : Obligations.SomeWordsDecodeAsTheTableSays := by
  unfold Obligations.SomeWordsDecodeAsTheTableSays
  decide

/-- Settles O7: the state of the execute phase is the one in which the events have landed, with pc advanced. -/
theorem stepRunsTheDecodedInstruction : Obligations.StepRunsTheDecodedInstruction := by
  intro s i hpc hdec _
  have hfetch : fetchInstr s = .ok i := (fetchInstr_ok s i).mpr ⟨hpc, decodeWord_of_decode_pair hdec⟩
  have hstep : step s = finishStep (exec i s.arrived.advancePc) := step_of_fetchInstr_ok hfetch
  refine ⟨⟨s.arrived.advancePc, rfl, (fetchInstr_pc s i hfetch).2, fun u hu => ?_, fun f hf => ?_, fun r hr => ?_⟩,
    fun u => ⟨sameButTimers_consumeInput u, u.consumeInput_timers, consumeInput_inputs u, consumeInput_draws u⟩⟩
  · rw [hstep, hu, finishStep]
  · rw [hstep, hf, finishStep]
  · rw [hstep, hr, finishStep]

end Sys2Proof.Proofs

/-! PROOFS. Control transfer (O33 to O38: spec/40_control_flow.md R101 to R107): what a jump, a skip and a call leave as it was, and
that a return undoes a call (R100, R102). -/

namespace Sys2Proof.Machine

/-! ### The frames of control transfer -/

section
variable (s : State)

/-- A write to pc writes nothing else (R26). -/
theorem onlyPc_setPc (w : Word) : OnlyPc s (s.setPc w) :=
  ⟨s.setPc_reg w, s.setPc_i w, s.setPc_byteAt w, ⟨s.setPc_sp w, s.setPc_slot w⟩, fun _ _ => rfl, s.setPc_timers w,
    sameModelFields_setPc s w⟩

/-- A skip writes pc only, where it writes at all (R109). -/
theorem onlyPc_skipIf (b : Bool) : OnlyPc s (s.skipIf b) :=
  ⟨s.skipIf_reg b, s.skipIf_i b, s.skipIf_byteAt b, ⟨s.skipIf_sp b, s.skipIf_slot b⟩, fun c r => by rw [State.skipIf_fb],
    s.skipIf_timers b, sameModelFields_skipIf s b⟩

theorem skipIf_pc_decide (p : Prop) [Decidable p] : (s.skipIf (decide p)).pc = if p then s.pc + 2 else s.pc := by
  simp only [State.skipIf_pc, decide_eq_true_eq]

theorem skipIf_pc_decide_not (p : Prop) [Decidable p] : (s.skipIf (decide (¬ p))).pc = if p then s.pc else s.pc + 2 := by
  rw [skipIf_pc_decide, ite_not]

variable {s} {t u : State}

theorem OnlyPcAndStack.trans (hst : OnlyPcAndStack s t) (htu : OnlyPcAndStack t u) : OnlyPcAndStack s u := by
  obtain ⟨hreg, hi, hmem, hfb, htimers, hfont, hinputs, hdraws⟩ := hst
  obtain ⟨hreg', hi', hmem', hfb', htimers', hfont', hinputs', hdraws'⟩ := htu
  exact ⟨fun r => (hreg' r).trans (hreg r), hi'.trans hi, fun a => (hmem' a).trans (hmem a),
    fun c r => (hfb' c r).trans (hfb c r), htimers'.trans htimers, hfont'.trans hfont, hinputs'.trans hinputs,
    hdraws'.trans hdraws⟩

end

/-! ### The call stack -/

section
variable {s t : State} {nnn : Addr}

/-- The state after a call on a stack with a free slot `j`, which is the slot at SP (R102). -/
theorem execCall_of_free {j : Fin 16} (hj : (j.val : Int) = s.sp) :
    ∃ t, execCall nnn s = .next t ∧ t.pc.toNat = nnn.toNat ∧ t.slot j = s.pc ∧ t.sp = s.sp - 1 ∧
      (∀ k, k ≠ j → t.slot k = s.slot k) ∧ OnlyPcAndStack s t := by
  have hsp : s.sp = 15 - (s.depth.val : Int) := rfl
  have hfree : s.depth.val < 16 := by omega
  have hindex : 15 - s.depth.val = j.val := by omega
  refine ⟨_, execCall_next.mpr ⟨hfree, rfl⟩, zext16_toNat nnn, ?_, ?_, fun k hk => ?_,
    ⟨fun _ => rfl, rfl, fun _ => rfl, fun _ _ => rfl, rfl, rfl, rfl, rfl⟩⟩
  · simp [State.slot, Vector.get_eq_getElem, hindex]
  · simp [State.sp]
    omega
  · have hne : j.val ≠ k.val := fun h => hk (Fin.ext h.symm)
    simp [State.slot, Vector.get_eq_getElem, hindex, hne]

/-- A call that answers a next state had a free slot at SP (R102). -/
theorem exists_free_of_execCall (h : execCall nnn s = .next t) : ∃ j : Fin 16, (j.val : Int) = s.sp := by
  obtain ⟨hfree, -⟩ := execCall_next.mp h
  refine ⟨⟨15 - s.depth.val, by omega⟩, ?_⟩
  simp [State.sp]
  omega

end

/-! ### The words with an illegal low nibble -/

theorem decodeOrRaise_of_illegalWord {op : Word} (h : IllegalWord op) : decodeOrRaise op = .error (.illegalOpcode op) := by
  rw [decodeOrRaise, decodeWord_illegal_iff.mpr h]

section
variable {x y : RegIndex} {n : Nibble} (hn : n ≠ 0)
include hn

theorem illegalWord_packXYN_five : IllegalWord (packXYN 0x5 x y n) :=
  .inr (.inl ⟨fieldO_packXYN .., by rwa [fieldN_packXYN]⟩)

theorem illegalWord_packXYN_nine : IllegalWord (packXYN 0x9 x y n) :=
  .inr (.inr (.inr (.inl ⟨fieldO_packXYN .., by rwa [fieldN_packXYN]⟩)))

end

/-! ### A jump with offset -/

/-- The sum of a byte and a 12-bit offset fits pc (R107, D13). -/
theorem jumpTarget_toNat (b : Byte) (nnn : Addr) : (BitVec.ofNat 16 (b.toNat + nnn.toNat)).toNat = b.toNat + nnn.toNat := by
  have hb : b.toNat < 256 := b.isLt
  have hnnn : nnn.toNat < 4096 := nnn.isLt
  rw [BitVec.toNat_ofNat, Nat.mod_eq_of_lt (by omega)]

end Sys2Proof.Machine

namespace Sys2Proof.Proofs
open Sys2Proof.Machine

/-- Settles O33: the jump is one write to pc; a fetch at 0xFFF finds its second byte outside memory. -/
theorem jumpSetsPc : Obligations.JumpSetsPc := by
  intro s nnn
  refine ⟨⟨packNNN_major 0x1 nnn, decodeWord_encode _⟩, s.setPc (zext16 nnn), rfl, zext16_toNat nnn, onlyPc_setPc s _, ?_⟩
  rintro rfl
  exact fetchWord_error _ (Nat.le_refl memSize)

/-- Settles O34: with `SP = 15 - depth`, the slot at SP is the one that the push writes, and SP = -1 is the full stack. -/
theorem callPushesTheReturnAddress : Obligations.CallPushesTheReturnAddress := by
  refine fun s nnn => ⟨fun j hj => execCall_of_free hj, fun hfull => execCall_fault.mpr ⟨?_, rfl⟩⟩
  have hsp : s.sp = 15 - (s.depth.val : Int) := rfl
  omega

/-- Settles O35: the return reads the slot `j` that the call wrote, since SP has moved down by one from it (O34, O32). -/
theorem returnUndoesCall : Obligations.ReturnUndoesCall := by
  intro s t nnn h
  obtain ⟨j, hj⟩ := exists_free_of_execCall h
  obtain ⟨t', h', -, hpushed, hdown, -, hcall⟩ := (callPushesTheReturnAddress s nnn).1 j hj
  obtain rfl : t = t' := Host.Outcome.next.inj (h.symm.trans h')
  obtain ⟨u, hu, hpc, hup, -, hret⟩ := (returnPopsTheStack t).1 j (by omega)
  exact ⟨u, hu, hpc.trans hpushed, by omega, hcall.trans hret⟩

/-- Settles O36: each is a skip on its comparison. -/
theorem skipOnImmediate : Obligations.SkipOnImmediate :=
  fun s x kk => ⟨⟨packXKK_major 0x3 x kk, decodeWord_encode _⟩, ⟨packXKK_major 0x4 x kk, decodeWord_encode _⟩,
    ⟨_, rfl, skipIf_pc_decide s _, onlyPc_skipIf s _⟩, ⟨_, rfl, skipIf_pc_decide_not s _, onlyPc_skipIf s _⟩⟩

/-- Settles O37: each is a skip on its comparison, and the fixed low nibble is 0 in both rows. -/
theorem skipOnRegisters : Obligations.SkipOnRegisters :=
  fun s x y => ⟨⟨packXYN_sub 0x5 x y 0, decodeWord_encode _⟩, ⟨packXYN_sub 0x9 x y 0, decodeWord_encode _⟩,
    fun _ hn => ⟨decodeOrRaise_of_illegalWord (illegalWord_packXYN_five hn),
      decodeOrRaise_of_illegalWord (illegalWord_packXYN_nine hn)⟩,
    ⟨_, rfl, skipIf_pc_decide s _, onlyPc_skipIf s _⟩, ⟨_, rfl, skipIf_pc_decide_not s _, onlyPc_skipIf s _⟩⟩

/-- Settles O38: the jump is one write of a sum that fits pc; from 0xFFF on the fetch leaves memory. -/
theorem jumpWithOffsetIsNotReduced : Obligations.JumpWithOffsetIsNotReduced := by
  intro s nnn
  have hpc : (s.setPc (BitVec.ofNat 16 ((s.reg 0).toNat + nnn.toNat))).pc.toNat = (s.reg 0).toNat + nnn.toNat :=
    jumpTarget_toNat (s.reg 0) nnn
  refine ⟨_, rfl, hpc, onlyPc_setPc s _, fun hbig => ⟨_, le_max_right _ memSize, fetchWord_error _ ?_⟩⟩
  rw [hpc, memSize]
  omega

end Sys2Proof.Proofs

/-! PROOFS. Register loads and arithmetic (O39 to O44: spec/41_alu.md R120 to R131): the values of the arithmetic results and of the
flags (R24), and that a write to a register, with or without a flag after it, leaves the rest of the state as it was. -/

namespace Sys2Proof.Machine

/-! ### The arithmetic results -/

section
variable (a b : Byte)

theorem addByte_toNat : (addByte a b).toNat = (a.toNat + b.toNat) % 256 := BitVec.toNat_ofNat ..

/-- The remainder is the nonnegative one, also for a negative difference (R10). -/
theorem subByte_toNat : ((subByte a b).toNat : Int) = ((a.toNat : Int) - b.toNat) % 256 := by
  rw [subByte, BitVec.toNat_ofInt]
  exact Int.toNat_of_nonneg (Int.emod_nonneg _ (by decide))

theorem shiftRight1_eq : shiftRight1 a = a >>> 1 := by
  have ha : a.toNat < 256 := a.isLt
  apply BitVec.eq_of_toNat_eq
  rw [shiftRight1, BitVec.toNat_ofNat, BitVec.toNat_ushiftRight, Nat.shiftRight_eq_div_pow]
  omega

theorem shiftLeft1_eq : shiftLeft1 a = a <<< 1 := by
  apply BitVec.eq_of_toNat_eq
  rw [shiftLeft1, BitVec.toNat_ofNat, BitVec.toNat_shiftLeft, Nat.shiftLeft_eq, Nat.pow_one]

/-! ### The flags -/

theorem flagByte_toNat (c : Bool) : (flagByte c).toNat = c.toNat := by
  cases c <;> rfl

theorem flagByte_decide (p : Prop) [Decidable p] : flagByte (decide p) = if p then 1 else 0 := by
  simp only [flagByte, decide_eq_true_eq]

theorem carryFlag_eq : carryFlag a b = if a.toNat + b.toNat > 255 then 1 else 0 := flagByte_decide _

theorem noBorrowFlag_eq : noBorrowFlag a b = if a.toNat ≥ b.toNat then 1 else 0 := flagByte_decide _

theorem lowBitFlag_toNat : (lowBitFlag a).toNat = a.toNat % 2 := by
  rw [lowBitFlag, flagByte_toNat, BitVec.getLsbD, Nat.toNat_testBit, Nat.pow_zero, Nat.div_one]

/-- Bit 7 is the whole quotient by 128, a byte being below 256 (R24). -/
theorem highBitFlag_toNat : (highBitFlag a).toNat = a.toNat / 128 := by
  have ha : a.toNat < 256 := a.isLt
  rw [highBitFlag, flagByte_toNat, BitVec.getLsbD, Nat.toNat_testBit]
  omega

end

/-! ### A register write, and a result with its flag -/

section
variable (s : State) (x : RegIndex) (b c : Byte)

/-- A write to a register writes nothing else (R20). -/
theorem onlyRegs_setReg : OnlyRegs [x] s (s.setReg x b) :=
  ⟨fun _ hr => s.reg_setReg_ne b (Ne.symm (List.ne_of_not_mem_cons hr)), s.setReg_i x b, s.setReg_pc x b, s.setReg_byteAt x b,
    ⟨s.setReg_sp x b, s.setReg_slot x b⟩, fun _ _ => rfl, s.setReg_timers x b, sameModelFields_setReg s x b⟩

/-- A result and its flag go to the destination and to VF only (R22). -/
theorem onlyRegs_setRegFlag : OnlyRegs [x, flagReg] s (s.setRegFlag x b c) := by
  refine ⟨fun r hr => ?_, s.setRegFlag_i x b c, s.setRegFlag_pc x b c, s.setRegFlag_byteAt x b c,
    ⟨s.setRegFlag_sp x b c, s.setRegFlag_slot x b c⟩, fun _ _ => rfl, s.setRegFlag_timers x b c,
    sameModelFields_setRegFlag s x b c⟩
  obtain ⟨hx, hflag⟩ : r ≠ x ∧ r ≠ flagReg := by simpa using hr
  rw [State.reg_setRegFlag, if_neg hflag.symm, if_neg hx.symm]

/-- VF is written last: it ends as the flag, with `x = F` too (R22, D7). -/
theorem vf_setRegFlag : (s.setRegFlag x b c).vf = c := State.reg_setReg_self ..

variable {x} in
theorem reg_setRegFlag_dest (hx : x ≠ flagReg) : (s.setRegFlag x b c).reg x = b := by
  rw [State.reg_setRegFlag, if_neg hx.symm, if_pos rfl]

end

/-! ### The additions and the subtractions, whatever the operands come from -/

section
variable (s : State) (x : RegIndex) (a b : Byte)

/-- The state after an addition (R121, R126). -/
theorem setRegFlag_addByte :
    (x ≠ flagReg → ((s.setRegFlag x (addByte a b) (carryFlag a b)).reg x).toNat = (a.toNat + b.toNat) % 256) ∧
      (s.setRegFlag x (addByte a b) (carryFlag a b)).vf = (if a.toNat + b.toNat > 255 then 1 else 0) ∧
      OnlyRegs [x, flagReg] s (s.setRegFlag x (addByte a b) (carryFlag a b)) :=
  ⟨fun hx => by rw [reg_setRegFlag_dest s _ _ hx, addByte_toNat], by rw [vf_setRegFlag, carryFlag_eq],
    onlyRegs_setRegFlag s x _ _⟩

/-- The state after a subtraction (R127, R129). -/
theorem setRegFlag_subByte :
    (x ≠ flagReg →
        (((s.setRegFlag x (subByte a b) (noBorrowFlag a b)).reg x).toNat : Int) = ((a.toNat : Int) - b.toNat) % 256) ∧
      (s.setRegFlag x (subByte a b) (noBorrowFlag a b)).vf = (if a.toNat ≥ b.toNat then 1 else 0) ∧
      OnlyRegs [x, flagReg] s (s.setRegFlag x (subByte a b) (noBorrowFlag a b)) :=
  ⟨fun hx => by rw [reg_setRegFlag_dest s _ _ hx, subByte_toNat], by rw [vf_setRegFlag, noBorrowFlag_eq],
    onlyRegs_setRegFlag s x _ _⟩

end

end Sys2Proof.Machine

namespace Sys2Proof.Proofs
open Sys2Proof.Machine

/-- Settles O39: each is one register write. -/
theorem loadImmediateAndCopy : Obligations.LoadImmediateAndCopy :=
  fun s x y kk => ⟨⟨packXKK_major 0x6 x kk, decodeWord_encode _⟩, ⟨packXYN_sub 0x8 x y 0, decodeWord_encode _⟩,
    ⟨_, rfl, s.reg_setReg_self x kk, onlyRegs_setReg s x kk⟩, ⟨_, rfl, s.reg_setReg_self x _, onlyRegs_setReg s x _⟩⟩

/-- Settles O40: both are one addition, of Vx and the immediate or Vy. -/
theorem additionsCarryIntoVF : Obligations.AdditionsCarryIntoVF :=
  fun s x y kk => ⟨⟨_, rfl, setRegFlag_addByte s x (s.reg x) kk⟩, ⟨_, rfl, setRegFlag_addByte s x (s.reg x) (s.reg y)⟩⟩

/-- Settles O41: both are one subtraction, of the operands in the one order and in the other. -/
theorem subtractionsLeaveNoBorrowInVF : Obligations.SubtractionsLeaveNoBorrowInVF :=
  fun s x y => ⟨⟨_, rfl, setRegFlag_subByte s x (s.reg x) (s.reg y)⟩, ⟨_, rfl, setRegFlag_subByte s x (s.reg y) (s.reg x)⟩⟩

/-- Settles O42: the results are the shifts of Vx, and the flags are its lowest and its highest bit. -/
theorem shiftsDropTheirBitIntoVF : Obligations.ShiftsDropTheirBitIntoVF := by
  refine fun s x y => ⟨⟨_, rfl, fun hx => ?_, ?_, onlyRegs_setRegFlag s x _ _⟩,
    ⟨_, rfl, fun hx => ?_, ?_, onlyRegs_setRegFlag s x _ _⟩⟩
  · rw [reg_setRegFlag_dest s _ _ hx, shiftRight1_eq]
  · rw [vf_setRegFlag, lowBitFlag_toNat]
  · rw [reg_setRegFlag_dest s _ _ hx, shiftLeft1_eq]
  · rw [vf_setRegFlag, highBitFlag_toNat]

/-- Settles O43: each is one register write of a word whose bits are those of the two operands, combined. -/
theorem logicIsBitwise : Obligations.LogicIsBitwise := by
  refine fun s x y => ⟨⟨_, rfl, fun k => ?_, onlyRegs_setReg s x _⟩, ⟨_, rfl, fun k => ?_, onlyRegs_setReg s x _⟩,
    ⟨_, rfl, fun k => ?_, onlyRegs_setReg s x _⟩⟩
  · rw [State.reg_setReg_self, BitVec.getLsbD_or]
  · rw [State.reg_setReg_self, BitVec.getLsbD_and]
  · rw [State.reg_setReg_self, BitVec.getLsbD_xor]

/-- Settles O44: one register write; the mask 0x00 keeps no bit of the random byte, and 0xFF is all ones. -/
theorem randomByteIsMasked : Obligations.RandomByteIsMasked := by
  refine fun s x kk => ⟨_, rfl, s.reg_setReg_self x _, ?_, ?_, onlyRegs_setReg s x _⟩
  · rintro rfl
    rw [State.reg_setReg_self]
    exact BitVec.and_zero
  · rintro rfl
    rw [State.reg_setReg_self]
    exact BitVec.and_allOnes

end Sys2Proof.Proofs

/-! PROOFS. The index register and memory transfer (O45, O46, O48 to O51: spec/42_index_memory.md R140 to R146): what a stored block
reads as and leaves as it was, and what the registers hold after a block is loaded. -/

namespace Sys2Proof.Machine

/-! ### A stored block -/

section
variable (s : State) (a : Nat) (bs : List Byte)

/-- A block write stores its bytes and does nothing else (R59). -/
theorem onlyBytes_setBytes : OnlyBytes a bs.length s (s.setBytes a bs) :=
  ⟨s.setBytes_reg a bs, s.setBytes_i a bs, s.setBytes_pc a bs, sameMemoryOff_setBytes s a bs,
    ⟨s.setBytes_sp a bs, s.setBytes_slot a bs⟩, fun c r => by rw [State.setBytes_fb], s.setBytes_timers a bs,
    sameModelFields_setBytes s a bs⟩

theorem State.byteAt_setBytes_add {k : Nat} (hk : k < bs.length) : (s.setBytes a bs).byteAt (a + k) = bs.getD k 0 := by
  rw [State.byteAt_setBytes, if_pos (by omega), Nat.add_sub_cancel_left]

/-- Each decimal digit of a byte fits a byte: hundreds, tens and ones, as they read after a store (R143). -/
theorem toNat_byteAt_setBytes_bcdDigits (v : Byte) :
    ((s.setBytes a (bcdDigits v)).byteAt a).toNat = v.toNat / 100 ∧
      ((s.setBytes a (bcdDigits v)).byteAt (a + 1)).toNat = v.toNat / 10 % 10 ∧
      ((s.setBytes a (bcdDigits v)).byteAt (a + 2)).toNat = v.toNat % 10 := by
  have hv : v.toNat < 256 := v.isLt
  have hread : ∀ k, k < 3 → (s.setBytes a (bcdDigits v)).byteAt (a + k) = (bcdDigits v).getD k 0 :=
    fun _ hk => s.byteAt_setBytes_add a (bcdDigits v) hk
  have hhundreds : (s.setBytes a (bcdDigits v)).byteAt a = (bcdDigits v).getD 0 0 := hread 0 (by decide)
  rw [hhundreds, hread 1 (by decide), hread 2 (by decide)]
  simp only [bcdDigits, List.getD_cons_zero, List.getD_cons_succ, BitVec.toNat_ofNat]
  omega

end

/-! ### A loaded block -/

section
variable (s : State)

theorem State.bytesAt_getD (a : Nat) {n k : Nat} (hk : k < n) : (s.bytesAt a n).getD k 0 = s.byteAt (a + k) := by
  simp [State.bytesAt, List.getD_eq_getElem?_getD, hk]

theorem State.bytesAt_length (a n : Nat) : (s.bytesAt a n).length = n := by
  simp [State.bytesAt]

/-- What each register holds after the block `V0`..`Vx` is loaded from `a` on (R145). -/
theorem State.reg_setRegsFrom_bytesAt (a : Nat) (x r : RegIndex) :
    (s.setRegsFrom 0 (s.bytesAt a (x.toNat + 1))).reg r =
      if r.toNat ≤ x.toNat then s.byteAt (a + r.toNat) else s.reg r := by
  have hx : x.toNat < 16 := x.isLt
  have hfits : 0 + (s.bytesAt a (x.toNat + 1)).length ≤ 16 := by rw [State.bytesAt_length]; omega
  rw [State.reg_setRegsFrom s 0 _ hfits, State.bytesAt_length]
  by_cases hr : r.toNat ≤ x.toNat
  · rw [if_pos (by omega), if_pos hr, Nat.sub_zero, s.bytesAt_getD a (by omega)]
  · rw [if_neg (by omega), if_neg hr]

theorem ofNat_toNat_regIndex (r : RegIndex) : BitVec.ofNat 4 r.toNat = r := by
  rw [BitVec.ofNat_toNat, BitVec.setWidth_eq]

theorem mem_map_ofNat_range_of_le {x r : RegIndex} (h : r.toNat ≤ x.toNat) :
    r ∈ (List.range (x.toNat + 1)).map (BitVec.ofNat 4) :=
  List.mem_map.mpr ⟨r.toNat, List.mem_range.mpr (Nat.lt_succ_of_le h), ofNat_toNat_regIndex r⟩

/-- Loading the block `V0`..`Vx` writes these registers and nothing else (R145). -/
theorem onlyRegs_setRegsFrom_bytesAt (a : Nat) (x : RegIndex) :
    OnlyRegs ((List.range (x.toNat + 1)).map (BitVec.ofNat 4)) s (s.setRegsFrom 0 (s.bytesAt a (x.toNat + 1))) := by
  refine ⟨fun r hr => ?_, s.setRegsFrom_i _ _, s.setRegsFrom_pc _ _, s.setRegsFrom_byteAt _ _,
    ⟨s.setRegsFrom_sp _ _, s.setRegsFrom_slot _ _⟩, fun c r => by rw [State.setRegsFrom_fb], s.setRegsFrom_timers _ _,
    sameModelFields_setRegsFrom s _ _⟩
  rw [State.reg_setRegsFrom_bytesAt, if_neg fun h => hr (mem_map_ofNat_range_of_le h)]

end

end Sys2Proof.Machine

namespace Sys2Proof.Proofs
open Sys2Proof.Machine

/-- Settles O45: the load is one write to I. -/
theorem loadIndex : Obligations.LoadIndex :=
  fun s nnn => ⟨⟨packNNN_major 0xA nnn, decodeWord_encode _⟩, _, rfl, zext16_toNat nnn, onlyIndex_setI s _⟩

/-- Settles O46: a sum that fits 16 bits is written to I as it is. -/
theorem addToIndexIsRangeChecked : Obligations.AddToIndexIsRangeChecked := by
  refine fun s x => ⟨fun hfits => ⟨_, execAddIVx_next.mpr ⟨hfits, rfl⟩, ?_, onlyIndex_setI s _⟩,
    fun hbig => execAddIVx_fault.mpr ⟨hbig, rfl⟩⟩
  rw [State.setI_i, BitVec.toNat_ofNat, Nat.mod_eq_of_lt (Nat.lt_succ_of_le hfits)]

/-- Settles O48: the store is a block write of the three digits. -/
theorem storeDecimalDigits : Obligations.StoreDecimalDigits := by
  refine fun s x => ⟨fun hin => ⟨_, execLdBVx_next.mpr ⟨hin, rfl⟩, ?_⟩,
    fun hout => execLdBVx_fault.mpr ⟨Nat.lt_succ_of_le hout, rfl⟩⟩
  obtain ⟨hhundreds, htens, hones⟩ := toNat_byteAt_setBytes_bcdDigits s s.indexAddr (s.reg x)
  exact ⟨hhundreds, htens, hones, onlyBytes_setBytes s s.indexAddr (bcdDigits (s.reg x))⟩

/-- Settles O49: the store is a block write of the registers `V0`..`Vx`. -/
theorem storeRegisterBlock : Obligations.StoreRegisterBlock := by
  refine fun s x => ⟨fun hin => ⟨_, execLdMemVx_next.mpr ⟨hin, rfl⟩, fun _ hk => s.byteAt_setBytes_regBlock x hk, ?_⟩,
    fun hout => execLdMemVx_fault.mpr ⟨Nat.lt_succ_of_le hout, rfl⟩⟩
  rw [← s.regBlock_length x]
  exact onlyBytes_setBytes s s.indexAddr (s.regBlock x)

/-- Settles O50: the load writes the bytes read to the registers `V0`..`Vx`. -/
theorem loadRegisterBlock : Obligations.LoadRegisterBlock := by
  refine fun s x => ⟨fun hin => ⟨_, execLdVxMem_next.mpr ⟨hin, rfl⟩, fun r hr => ?_, fun r hr => ?_,
    onlyRegs_setRegsFrom_bytesAt s s.indexAddr x⟩, fun hout => execLdVxMem_fault.mpr ⟨Nat.lt_succ_of_le hout, rfl⟩⟩
  · rw [State.reg_setRegsFrom_bytesAt, if_pos hr, State.indexAddr]
  · rw [State.reg_setRegsFrom_bytesAt, if_neg (Nat.not_le_of_lt hr)]

/-- Settles O51: I is as it was at the store, so the load reads back the block that the store wrote (O49, O50). -/
theorem loadUndoesStoreOfABlock : Obligations.LoadUndoesStoreOfABlock := by
  intro s t u x hstore hi hmem
  obtain ⟨hin, rfl⟩ := execLdMemVx_next.mp hstore
  have hindex : u.indexAddr = s.indexAddr := by rw [State.indexAddr, ← hi, State.setBytes_i, State.indexAddr]
  have hin' : u.indexAddr + (x.toNat + 1) ≤ memSize := by rwa [hindex]
  obtain ⟨w, hload, hread, -⟩ := (loadRegisterBlock u x).1 hin'
  refine ⟨w, hload, fun r hr => ?_⟩
  calc w.reg r
      = u.byteAt (u.indexAddr + r.toNat) := hread r hr
    _ = (s.setBytes s.indexAddr (s.regBlock x)).byteAt (s.indexAddr + r.toNat) := by rw [hmem, hindex]
    _ = s.reg (BitVec.ofNat 4 r.toNat) := s.byteAt_setBytes_regBlock x hr
    _ = s.reg r := by rw [ofNat_toNat_regIndex]

end Sys2Proof.Proofs

/-! PROOFS. The frame buffer, clear and sprite draw (O53 to O56: spec/43_display.md R160 to R163): the draw loop visits each pixel at
most once, so that it flips a set of pixels all at once, and a draw writes the frame buffer and VF only. -/

namespace Sys2Proof.Machine

/-! ### A set of pixels flipped at once -/

/-- The drawing `d'` is the drawing `d` with the pixels of `S` flipped, all at once: the collision bit is as it was, or set because
a pixel of `S` was set in `d`. -/
structure FlipsExactly (S : Set (Fin 64 × Fin 32)) (d d' : Drawing) : Prop where
  flips : ∀ {c r}, (c, r) ∈ S → pixel d'.fb c r = !pixel d.fb c r
  keeps : ∀ {c r}, (c, r) ∉ S → pixel d'.fb c r = pixel d.fb c r
  collides : d'.coll = true ↔ d.coll = true ∨ ∃ c r, (c, r) ∈ S ∧ pixel d.fb c r = true

theorem FlipsExactly.refl (d : Drawing) : FlipsExactly ∅ d d where
  flips h := h.elim
  keeps _ := rfl
  collides := by simp

/-- One sprite bit flips its own pixel, if it is set (R161). -/
theorem flipsExactly_drawBit (d : Drawing) (c : Fin 64) (r : Fin 32) (bit : Bool) :
    FlipsExactly {p | bit = true ∧ p = (c, r)} d (drawBit d c r bit) where
  flips := by
    rintro c' r' ⟨rfl, hp⟩
    obtain ⟨rfl, rfl⟩ := Prod.mk.inj hp
    simp [pixel_drawBit]
  keeps := by
    intro c' r' hp
    have hother : (bit && decide (c = c' ∧ r = r')) = false := by
      rw [Bool.and_eq_false_imp]
      exact fun hbit => decide_eq_false fun ⟨hc, hr⟩ => hp ⟨hbit, by rw [hc, hr]⟩
    rw [pixel_drawBit, hother, Bool.xor_false]
  collides := by simp [coll_drawBit]

/-- A pixel of the second set is as it was before the first flips, the sets having no pixel in common. -/
theorem FlipsExactly.trans {S T : Set (Fin 64 × Fin 32)} {d d' d'' : Drawing} (h : FlipsExactly S d d')
    (h' : FlipsExactly T d' d'') (hST : Disjoint S T) : FlipsExactly (S ∪ T) d d'' where
  flips := by
    rintro c r (hS | hT)
    · rw [h'.keeps (Set.disjoint_left.mp hST hS), h.flips hS]
    · rw [h'.flips hT, h.keeps (Set.disjoint_right.mp hST hT)]
  keeps := by
    intro c r hp
    rw [Set.mem_union, not_or] at hp
    rw [h'.keeps hp.2, h.keeps hp.1]
  collides := by
    have hT : (∃ c r, (c, r) ∈ T ∧ pixel d'.fb c r = true) ↔ ∃ c r, (c, r) ∈ T ∧ pixel d.fb c r = true :=
      exists₂_congr fun c r => and_congr_right fun hT => by rw [h.keeps (Set.disjoint_right.mp hST hT)]
    rw [h'.collides, h.collides, hT, or_assoc]
    simp only [Set.mem_union, or_and_right, exists_or]

/-! ### The pixels of a sprite -/

/-- The pixels under the set bits of a sprite row, at the column offsets `bs` (R161). -/
def rowCells (cx r : Nat) (row : Byte) (bs : List Nat) : Set (Fin 64 × Fin 32) :=
  {p | ∃ b ∈ bs, row.getLsbD (7 - b) = true ∧ p = (wrapCol (cx + b), wrapRow r)}

/-- The pixels under the set bits of a sprite whose first row is drawn at row `r` (R161). -/
def spriteCells (cx r : Nat) (spr : List Byte) : Set (Fin 64 × Fin 32) :=
  {p | ∃ k b, k < spr.length ∧ b < 8 ∧ spriteBit spr k b = true ∧ p = (wrapCol (cx + b), wrapRow (r + k))}

/-- The eight columns of a sprite are distinct, since 8 <= 64 (R163 (a)). -/
theorem wrapCol_injOn {cx b b' : Nat} (hb : b < 8) (hb' : b' < 8) (h : wrapCol (cx + b) = wrapCol (cx + b')) : b = b' := by
  have hmod : (cx + b) % 64 = (cx + b') % 64 := congrArg Fin.val h
  omega

/-- At most 32 rows of a sprite are distinct (R163 (a)). -/
theorem wrapRow_injOn {cy k k' : Nat} (hk : k < 32) (hk' : k' < 32) (h : wrapRow (cy + k) = wrapRow (cy + k')) : k = k' := by
  have hmod : (cy + k) % 32 = (cy + k') % 32 := congrArg Fin.val h
  omega

section
variable (cx r : Nat) (row : Byte) (rows : List Byte)

theorem rowCells_nil : rowCells cx r row [] = ∅ := by
  simp [rowCells]

theorem rowCells_cons (b : Nat) (bs : List Nat) : rowCells cx r row (b :: bs) =
    {p | row.getLsbD (7 - b) = true ∧ p = (wrapCol (cx + b), wrapRow r)} ∪ rowCells cx r row bs := by
  ext p
  simp [rowCells]

theorem spriteCells_nil : spriteCells cx r [] = ∅ := by
  simp [spriteCells]

theorem spriteCells_cons :
    spriteCells cx r (row :: rows) = rowCells cx r row (List.range 8) ∪ spriteCells cx (r + 1) rows := by
  ext p
  constructor
  · rintro ⟨_ | k, b, hk, hb, hbit, hp⟩
    · exact .inl ⟨b, List.mem_range.mpr hb, hbit, hp⟩
    · exact .inr ⟨k, b, Nat.lt_of_succ_lt_succ hk, hb, hbit, by rwa [Nat.add_right_comm]⟩
  · rintro (⟨b, hb, hbit, hp⟩ | ⟨k, b, hk, hb, hbit, hp⟩)
    · exact ⟨0, b, Nat.succ_pos _, List.mem_range.mp hb, hbit, hp⟩
    · exact ⟨k + 1, b, Nat.succ_lt_succ hk, hb, hbit, by rwa [Nat.add_right_comm] at hp⟩

end

/-! ### The draw loop -/

/-- The loop over the columns of a row flips the pixels under its set bits, as no two of them are in one column (R161, R163 (a)). -/
theorem flipsExactly_foldl_drawBit (cx r : Nat) (row : Byte) (bs : List Nat) (d : Drawing) (hbs : bs.Nodup)
    (hlt : ∀ b ∈ bs, b < 8) : FlipsExactly (rowCells cx r row bs) d
      (bs.foldl (fun d b => drawBit d (wrapCol (cx + b)) (wrapRow r) (row.getLsbD (7 - b))) d) := by
  induction bs generalizing d with
  | nil =>
    rw [rowCells_nil]
    exact .refl d
  | cons b bs ih =>
    obtain ⟨hnew, hbs⟩ := List.nodup_cons.mp hbs
    obtain ⟨hb, hlt⟩ := List.forall_mem_cons.mp hlt
    rw [rowCells_cons, List.foldl_cons]
    refine (flipsExactly_drawBit d _ _ _).trans (ih _ hbs hlt) (Set.disjoint_left.mpr ?_)
    rintro _ ⟨-, rfl⟩ ⟨b', hb', -, hp⟩
    have hsame : b = b' := wrapCol_injOn hb (hlt b' hb') (Prod.mk.inj hp).1
    exact hnew (hsame ▸ hb')

theorem flipsExactly_drawRow (d : Drawing) (cx r : Nat) (row : Byte) :
    FlipsExactly (rowCells cx r row (List.range 8)) d (drawRow d cx r row) :=
  flipsExactly_foldl_drawBit cx r row (List.range 8) d List.nodup_range fun _ => List.mem_range.mp

/-- The loop over the rows flips the pixels under the sprite's set bits, as no two rows coincide (R161, R163 (a)). -/
theorem flipsExactly_drawRows (cx r : Nat) (spr : List Byte) (d : Drawing) (hlen : spr.length ≤ 32) :
    FlipsExactly (spriteCells cx r spr) d (drawRows cx r spr d) := by
  induction spr generalizing r d with
  | nil =>
    rw [spriteCells_nil]
    exact .refl d
  | cons row rows ih =>
    have hlen : rows.length + 1 ≤ 32 := hlen
    rw [spriteCells_cons]
    refine (flipsExactly_drawRow d cx r row).trans (ih (r + 1) _ (by omega)) (Set.disjoint_left.mpr ?_)
    rintro _ ⟨b, -, -, rfl⟩ ⟨k, b', hk, -, -, hp⟩
    have hrow : wrapRow (r + 0) = wrapRow (r + (1 + k)) := by
      rw [← Nat.add_assoc]
      exact (Prod.mk.inj hp).2
    have hsame : 0 = 1 + k := wrapRow_injOn (by omega) (by omega) hrow
    omega

theorem flipsExactly_drawSprite (fb : Frame) (cx cy : Nat) {spr : List Byte} (hlen : spr.length ≤ 32) :
    FlipsExactly (spriteCells cx cy spr) { fb := fb, coll := false } (drawSprite fb cx cy spr) :=
  flipsExactly_drawRows cx cy spr _ hlen

/-- A pixel of the sprite's rectangle is under the one bit that is drawn there (R163 (a)). -/
theorem mem_spriteCells {cx cy k b : Nat} {spr : List Byte} (hlen : spr.length ≤ 32) (hk : k < spr.length) (hb : b < 8) :
    (wrapCol (cx + b), wrapRow (cy + k)) ∈ spriteCells cx cy spr ↔ spriteBit spr k b = true := by
  refine ⟨?_, fun hbit => ⟨k, b, hk, hb, hbit, rfl⟩⟩
  rintro ⟨k', b', hk', hb', hbit, hp⟩
  obtain ⟨hcol, hrow⟩ := Prod.mk.inj hp
  obtain rfl := wrapCol_injOn hb hb' hcol
  obtain rfl := wrapRow_injOn (by omega) (by omega) hrow
  exact hbit

/-! ### A write to the frame buffer, and to VF after it -/

section
variable (s : State) (fb : Frame)

theorem onlyFrameAndRegs_setFb : OnlyFrameAndRegs [] s (s.setFb fb) :=
  ⟨fun r _ => s.setFb_reg fb r, s.setFb_i fb, s.setFb_pc fb, s.setFb_byteAt fb, ⟨s.setFb_sp fb, s.setFb_slot fb⟩,
    s.setFb_timers fb, sameModelFields_setFb s fb⟩

/-- A register write does not touch the frame buffer, so that the two writes together touch it and the register only (R20, R33). -/
theorem onlyFrameAndRegs_setFb_setReg (x : RegIndex) (b : Byte) : OnlyFrameAndRegs [x] s ((s.setFb fb).setReg x b) := by
  obtain ⟨hregs, hi, hpc, hmem, hstack, -, htimers, hfields⟩ := onlyRegs_setReg (s.setFb fb) x b
  exact ⟨hregs, hi, hpc, hmem, hstack, htimers, hfields⟩

end

end Sys2Proof.Machine

namespace Sys2Proof.Proofs
open Sys2Proof.Machine

/-- Settles O53: the clear is one write to the frame buffer. -/
theorem clearUnsetsEveryPixel : Obligations.ClearUnsetsEveryPixel :=
  fun s => ⟨⟨rfl, decodeWord_encode .cls⟩, _, rfl, pixel_clearFrame, onlyFrameAndRegs_setFb s clearFrame⟩

/-- Settles O54: the loop flips exactly the pixels under the sprite's set bits, and each pixel is under one bit at most. -/
theorem drawIsXorWithTheWrappedSprite : Obligations.DrawIsXorWithTheWrappedSprite := by
  intro fb cx cy spr hlen
  have hdraw := flipsExactly_drawSprite fb cx cy hlen
  refine ⟨fun k b hk hb => ?_, fun c r hout => hdraw.keeps ?_, ?_⟩
  · have hcell := mem_spriteCells (cx := cx) (cy := cy) hlen hk hb
    cases hbit : spriteBit spr k b with
    | false => rw [hdraw.keeps (by simp [hcell, hbit]), Bool.xor_false]
    | true => rw [hdraw.flips (hcell.mpr hbit), Bool.xor_true]
  · rintro ⟨k, b, hk, hb, -, hp⟩
    exact hout k b hk hb (Prod.mk.inj hp)
  · rw [hdraw.collides]
    constructor
    · rintro (hfalse | ⟨c, r, ⟨k, b, hk, hb, hbit, hp⟩, hset⟩)
      · exact absurd hfalse Bool.false_ne_true
      · obtain ⟨rfl, rfl⟩ := Prod.mk.inj hp
        exact ⟨k, b, hk, hb, hbit, hset⟩
    · rintro ⟨k, b, hk, hb, hbit, hset⟩
      exact .inr ⟨_, _, ⟨k, b, hk, hb, hbit, rfl⟩, hset⟩

/-- Refutes O55: where the sprite's one pixel was set before, the first draw unsets it, and the second sets it again without a
collision (R163 (c)). -/
theorem not_drawingTwiceRestoresTheFrame : ¬ Obligations.DrawingTwiceRestoresTheFrame := by
  intro h
  obtain ⟨_, rfl, -, hcoll⟩ := h (flipPixel clearFrame 0 0) 0 0 [0x80] (by decide)
  have hnone : (drawSprite (drawSprite (flipPixel clearFrame 0 0) 0 0 [0x80]).fb 0 0 [0x80]).coll = false := by decide
  have hset : spriteBit [0x80] 0 0 = true := by decide
  rw [hcoll.mpr ⟨0, 0, by decide, by decide, hset⟩] at hnone
  exact Bool.false_ne_true hnone.symm

/-- Settles O56: the draw writes the frame buffer and VF; a sprite of no rows draws nothing. -/
theorem drawReadsTheSpriteAtTheIndex : Obligations.DrawReadsTheSpriteAtTheIndex := by
  refine fun s x y n => ⟨fun hin => ?_, fun hn hout => execDrw_fault.mpr ⟨⟨hn, hout⟩, rfl⟩⟩
  refine ⟨_, s.bytesAt s.indexAddr n.toNat, execDrw_next.mpr ⟨hin, rfl⟩, s.bytesAt_length _ _,
    fun k hk => s.bytesAt_getD _ hk, fun _ _ => rfl, State.reg_setReg_self .., fun h0 => ?_,
    onlyFrameAndRegs_setFb_setReg s _ _ _⟩
  rw [h0]
  exact ⟨State.reg_setReg_self .., fun _ _ => rfl⟩

end Sys2Proof.Proofs

/-! PROOFS. Keypad and timers (O57 to O59: spec/44_keypad_timer.md R181 to R186): when a key equals a register, what the key wait does
in either case, and that a timer write touches that timer only. -/

namespace Sys2Proof.Machine

/-! ### The key and a register -/

section
variable (k : Key) (v : Byte)

theorem keyIs_none : keyIs none v = false := rfl

/-- A key is compared with a register by value, in the naturals (R180, R181). -/
theorem keyIs_some : keyIs (some k) v = decide (k.toNat = v.toNat) := by
  have hk : k.toNat < 256 := Nat.lt_trans k.isLt (by decide)
  rw [keyIs, decide_eq_decide, ← BitVec.toNat_inj, BitVec.toNat_setWidth, Nat.mod_eq_of_lt hk]

variable {v}

/-- No key symbol has a value above 0x0F (R180). -/
theorem keyIs_of_gt (key : Option Key) (hv : v.toNat > 0x0F) : keyIs key v = false := by
  cases key with
  | none => exact keyIs_none v
  | some k =>
    have hk : k.toNat < 16 := k.isLt
    rw [keyIs_some]
    exact decide_eq_false (by omega)

end

/-! ### The key wait -/

section
variable {s : State} (x : RegIndex)

theorem execLdVxK_of_no_key (h : s.key = none) : execLdVxK x s = .next (s.setPc (s.pc - 2)) := by
  rw [execLdVxK, h]

theorem execLdVxK_of_key {k : Key} (h : s.key = some k) : execLdVxK x s = .next (s.setReg x (k.setWidth 8)) := by
  rw [execLdVxK, h]

end

/-! ### The frames of a timer write -/

section
variable (s : State) (b : Byte)

/-- A write to DT writes neither ST nor `run`, nor anything else (R31). -/
theorem onlyTimers_setDt : OnlyTimers s (s.setDt b) :=
  ⟨s.setDt_reg b, s.setDt_i b, s.setDt_pc b, s.setDt_byteAt b, ⟨s.setDt_sp b, s.setDt_slot b⟩, fun _ _ => rfl, rfl,
    sameModelFields_setDt s b⟩

/-- A write to ST writes neither DT nor `run`, nor anything else (R31). -/
theorem onlyTimers_setSt : OnlyTimers s (s.setSt b) :=
  ⟨s.setSt_reg b, s.setSt_i b, s.setSt_pc b, s.setSt_byteAt b, ⟨s.setSt_sp b, s.setSt_slot b⟩, fun _ _ => rfl, rfl,
    sameModelFields_setSt s b⟩

/-- The sound condition follows the write at once (R186, R222). -/
theorem soundActive_setSt : (s.setSt b).soundActive = true ↔ b ≠ 0 := decide_eq_true_iff

end

end Sys2Proof.Machine

namespace Sys2Proof.Proofs
open Sys2Proof.Machine

/-- Settles O57: both skip on the one comparison or its negation; no key and a register above 0x0F make it fail. -/
theorem skipOnKey : Obligations.SkipOnKey := by
  refine fun s x => ⟨⟨packXKK_sub 0xE x 0x9E, decodeWord_encode _⟩, ⟨packXKK_sub 0xE x 0xA1, decodeWord_encode _⟩,
    ⟨_, rfl, fun k hk => ?_, fun hk => ?_, fun hx => ?_, onlyPc_skipIf s _⟩,
    ⟨_, rfl, fun k hk => ?_, fun hk => ?_, fun hx => ?_, onlyPc_skipIf s _⟩⟩
  · rw [hk, keyIs_some, skipIf_pc_decide]
  · rw [hk, keyIs_none, State.skipIf_pc, if_neg Bool.false_ne_true]
  · rw [keyIs_of_gt s.key hx, State.skipIf_pc, if_neg Bool.false_ne_true]
  · rw [hk, keyIs_some, ← decide_not, skipIf_pc_decide_not]
  · rw [hk, keyIs_none, State.skipIf_pc, Bool.not_false, if_pos rfl]
  · rw [keyIs_of_gt s.key hx, State.skipIf_pc, Bool.not_false, if_pos rfl]

/-- Settles O58: without a key the wait is one write to pc, with one it is one register write. -/
theorem keyWaitRewindsOrReads : Obligations.KeyWaitRewindsOrReads := by
  refine fun s x => ⟨fun hk => ⟨_, execLdVxK_of_no_key x hk, s.setPc_pc _, onlyPc_setPc s _⟩,
    fun k hk => ⟨_, execLdVxK_of_key x hk, ?_, onlyRegs_setReg s x _⟩⟩
  rw [State.reg_setReg_self]
  exact BitVec.toNat_setWidth_of_le (by decide)

/-- Settles O59: the read is one register write, and each timer is set by a write that leaves the other as it was. -/
theorem timerReadsAndWrites : Obligations.TimerReadsAndWrites :=
  fun s x => ⟨⟨packXKK_sub 0xF x 0x07, decodeWord_encode _⟩, ⟨packXKK_sub 0xF x 0x15, decodeWord_encode _⟩,
    ⟨packXKK_sub 0xF x 0x18, decodeWord_encode _⟩,
    ⟨_, rfl, s.reg_setReg_self x _, onlyRegs_setReg s x _⟩,
    ⟨_, rfl, rfl, rfl, onlyTimers_setDt s _⟩,
    ⟨_, rfl, rfl, rfl, soundActive_setSt s _, onlyTimers_setSt s _⟩⟩

end Sys2Proof.Proofs

/-! PROOFS. The outcomes of a step (O9, O11, O12: spec/60_exceptions.md R200, R201, R203): which instruction raises which error and when
(`Raises`, `exec_fault_iff`), that nothing is refused, and that nothing else decides an error. Then the scheduler and the host's calls
(O20 to O23: R206 to R210): what an event does in each state of `run`, and what a list of them does. -/

namespace Sys2Proof.Machine

/-! ### The errors of the execute phase -/

/-- The "raised by" column of R201 for the execute phase: the instruction `i` raises the error `f` in the state `s`. The address of an
access that leaves memory is the lowest one outside it (R204). -/
inductive Raises (s : State) : Instr → Fault → Prop
  | ret (h : s.sp = 15) : Raises s .ret .stackUnderflow
  | call (nnn : Addr) (h : s.sp = -1) : Raises s (.call nnn) .stackOverflow
  | addIndex (x : RegIndex) (h : 0xFFFF < s.i.toNat + (s.reg x).toNat) :
      Raises s (.addIVx x) (.outOfBounds (s.i.toNat + (s.reg x).toNat))
  | draw (x y : RegIndex) (n : Nibble) (h : 0 < n.toNat ∧ memSize < s.indexAddr + n.toNat) :
      Raises s (.drw x y n) (.outOfBounds (max s.indexAddr memSize))
  | digits (x : RegIndex) (h : memSize < s.indexAddr + 3) : Raises s (.ldBVx x) (.outOfBounds (max s.indexAddr memSize))
  | store (x : RegIndex) (h : memSize < s.indexAddr + (x.toNat + 1)) :
      Raises s (.ldMemVx x) (.outOfBounds (max s.indexAddr memSize))
  | load (x : RegIndex) (h : memSize < s.indexAddr + (x.toNat + 1)) :
      Raises s (.ldVxMem x) (.outOfBounds (max s.indexAddr memSize))

section
variable {s t : State} {i : Instr} {f : Fault}

/-- The empty stack, by its depth (R29). -/
theorem sp_eq_fifteen_iff : s.sp = 15 ↔ s.depth.val = 0 := by
  rw [State.sp]
  omega

/-- The full stack, by its depth (R29). -/
theorem sp_eq_neg_one_iff : s.sp = -1 ↔ s.depth.val = 16 := by
  rw [State.sp]
  omega

/-- An instruction with an error of its own raises it as its law says; every other instruction answers a next state. -/
theorem raises_of_exec_fault (h : exec i s = .fault f) : Raises s i f := by
  cases i
  case ret =>
    obtain ⟨hd, rfl⟩ := execRet_fault.mp h
    exact .ret (sp_eq_fifteen_iff.mpr hd)
  case call =>
    obtain ⟨hd, rfl⟩ := execCall_fault.mp h
    exact .call _ (sp_eq_neg_one_iff.mpr hd)
  case addIVx =>
    obtain ⟨hsum, rfl⟩ := execAddIVx_fault.mp h
    exact .addIndex _ hsum
  case drw =>
    obtain ⟨hm, rfl⟩ := execDrw_fault.mp h
    exact .draw _ _ _ hm
  case ldBVx =>
    obtain ⟨hm, rfl⟩ := execLdBVx_fault.mp h
    exact .digits _ hm
  case ldMemVx =>
    obtain ⟨hm, rfl⟩ := execLdMemVx_fault.mp h
    exact .store _ hm
  case ldVxMem =>
    obtain ⟨hm, rfl⟩ := execLdVxMem_fault.mp h
    exact .load _ hm
  all_goals exact nomatch h

theorem Raises.exec_fault (h : Raises s i f) : exec i s = .fault f := by
  cases h with
  | ret h => exact execRet_fault.mpr ⟨sp_eq_fifteen_iff.mp h, rfl⟩
  | call nnn h => exact execCall_fault.mpr ⟨sp_eq_neg_one_iff.mp h, rfl⟩
  | addIndex x h => exact execAddIVx_fault.mpr ⟨h, rfl⟩
  | draw x y n h => exact execDrw_fault.mpr ⟨h, rfl⟩
  | digits x h => exact execLdBVx_fault.mpr ⟨h, rfl⟩
  | store x h => exact execLdMemVx_fault.mpr ⟨h, rfl⟩
  | load x h => exact execLdVxMem_fault.mpr ⟨h, rfl⟩

theorem exec_fault_iff : exec i s = .fault f ↔ Raises s i f := ⟨raises_of_exec_fault, Raises.exec_fault⟩

/-! ### What decides an error -/

/-- The errors of the execute phase depend on the registers, I and SP only (R203). -/
theorem Raises.congr (h : Raises s i f) (hst : SameErrorInputs s t) : Raises t i f := by
  obtain ⟨hreg, hi, -, hsp, -⟩ := hst
  have hindex : t.indexAddr = s.indexAddr := congrArg BitVec.toNat hi
  cases h with
  | ret h => exact .ret (hsp.trans h)
  | call nnn h => exact .call nnn (hsp.trans h)
  | addIndex x h =>
    rw [← hi, ← hreg x] at h ⊢
    exact .addIndex x h
  | draw x y n h => exact hindex ▸ .draw x y n (hindex ▸ h)
  | digits x h => exact hindex ▸ .digits x (hindex ▸ h)
  | store x h => exact hindex ▸ .store x (hindex ▸ h)
  | load x h => exact hindex ▸ .load x (hindex ▸ h)

/-- The fetch and decode depend on pc and memory only (R74, R203). -/
theorem fetchInstr_congr (hpc : t.pc = s.pc) (hmem : SameMemory s t) : fetchInstr t = fetchInstr s := by
  by_cases hin : s.pc.toNat + 1 < memSize
  · rw [fetchInstr_inside hin, fetchInstr_inside (hpc ▸ hin), hpc, hmem, hmem]
  · have hout : memSize ≤ s.pc.toNat + 1 := Nat.le_of_not_lt hin
    rw [fetchInstr, fetchInstr, fetchWord_error s hout, fetchWord_error t (hpc ▸ hout), hpc]

/-- Events and the advance of pc, on both sides, leave what decides an error the same (R205). -/
theorem SameErrorInputs.arrived_advancePc (h : SameErrorInputs s t) :
    SameErrorInputs s.arrived.advancePc t.arrived.advancePc := by
  obtain ⟨hreg, hi, hpc, hsp, hmem⟩ := h
  exact ⟨hreg, hi, congrArg (· + 2) hpc, hsp, hmem⟩

theorem step_fault_congr (h : step s = .fault f) (hst : SameErrorInputs s t) : step t = .fault f := by
  have ⟨_, _, hpc, _, hmem⟩ := hst
  have hfetch : fetchInstr t.arrived = fetchInstr s.arrived := fetchInstr_congr hpc hmem
  rcases step_fault.mp h with hf | ⟨i, hf, he⟩
  · exact step_fault.mpr (.inl (hfetch.trans hf))
  · have hraises : Raises t.arrived.advancePc i f := (exec_fault_iff.mp he).congr hst.arrived_advancePc
    exact step_fault.mpr (.inr ⟨i, hfetch.trans hf, exec_fault_iff.mpr hraises⟩)

/-! ### Nothing is refused -/

/-- A call whose step answers a next state returns `Ok` and leaves that state (R200). -/
theorem stepCall_of_step_next (h : step s = .next t) : stepCall s = { error := none, after := t } := by
  simp only [stepCall, h]

variable (s i f)

/-- Every instruction has a meaning (R200): where an instruction can raise an error, both branches of its check are outcomes. -/
theorem exec_ne_refused (r : Refusal) : exec i s ≠ .refused r := by
  cases i
  case ret | ldBVx | ldMemVx => exact commit_not_refused _ r
  case call | addIVx | drw | ldVxMem =>
    simp only [exec, execCall, execAddIVx, execDrw, execLdVxMem]
    split <;> exact nofun
  all_goals exact nofun

theorem step_ne_refused (r : Refusal) : step s ≠ .refused r := by
  cases hf : fetchInstr s with
  | error f =>
    rw [step_of_fetchInstr_error hf]
    exact nofun
  | ok i =>
    rw [step_of_fetchInstr_ok hf]
    cases he : exec i s.arrived.advancePc with
    | next u => exact nofun
    | fault f => exact nofun
    | refused r' => exact absurd he (exec_ne_refused _ i r')

/-- There are four kinds of error (R201). -/
theorem Fault.kind_cases : (∃ op, f = .illegalOpcode op) ∨ f = .stackOverflow ∨ f = .stackUnderflow ∨ ∃ a, f = .outOfBounds a := by
  cases f with
  | illegalOpcode op => exact .inl ⟨op, rfl⟩
  | stackOverflow => exact .inr (.inl rfl)
  | stackUnderflow => exact .inr (.inr (.inl rfl))
  | outOfBounds a => exact .inr (.inr (.inr ⟨a, rfl⟩))

end

/-! ### One event -/

section
variable {t : Timers}

theorem Timers.tick_dt_toNat : t.tick.dt.toNat = t.dt.toNat - 1 := countDown_toNat t.dt

theorem Timers.tick_st_toNat : t.tick.st.toNat = t.st.toNat - 1 := countDown_toNat t.st

theorem Timers.after_tick_of_running (h : t.run = .running) : t.after .tick = t.tick := by
  rw [Timers.after, Timers.schedulerTick, h]

theorem Timers.after_tick_of_stopping (h : t.run = .stopping) : t.after .tick = { t.tick with run := .stopped } := by
  rw [Timers.after, Timers.schedulerTick, h]

theorem Timers.after_settle_of_stopping (h : t.run = .stopping) : t.after .settle = { t with run := .stopped } := by
  rw [Timers.after, Timers.settle, h]

theorem Timers.after_stop_of_running (h : t.run = .running) : t.after .stop = { t with run := .stopping } := by
  rw [Timers.after, Timers.stop, h]

theorem Timers.after_stop_of_not_running (h : t.run ≠ .running) : t.after .stop = t := by
  rw [Timers.after, Timers.stop]
  cases hrun : t.run with
  | running => exact absurd hrun h
  | stopped => rfl
  | stopping => rfl

/-- While Stopped only `start()` does anything (R206, R209; log entry 4). -/
theorem Timers.after_of_stopped {e : Event} (h : t.run = .stopped) (he : e ≠ .start) : t.after e = t := by
  cases e with
  | start => exact absurd rfl he
  | stop => rw [Timers.after, Timers.stop, h]
  | tick => rw [Timers.after, Timers.schedulerTick, h]
  | settle => rw [Timers.after, Timers.settle, h]

/-! ### A list of events -/

/-- `n` ticks while Running (R207): natural subtraction is the clamp at 0. -/
theorem Timers.afterAll_ticks (n : Nat) (h : t.run = .running) :
    (t.afterAll (List.replicate n .tick)).dt.toNat = t.dt.toNat - n ∧
    (t.afterAll (List.replicate n .tick)).st.toNat = t.st.toNat - n ∧
    (t.afterAll (List.replicate n .tick)).run = .running := by
  induction n generalizing t with
  | zero => exact ⟨rfl, rfl, h⟩
  | succ n ih =>
    obtain ⟨hdt, hst, hrun⟩ := ih (t := t.tick) h
    rw [List.replicate_succ, Timers.afterAll, Timers.after_tick_of_running h, hdt, hst, Timers.tick_dt_toNat, Timers.tick_st_toNat]
    exact ⟨by omega, by omega, hrun⟩

theorem Timers.afterAll_of_stopped {es : List Event} (h : t.run = .stopped) (hes : .start ∉ es) : t.afterAll es = t := by
  induction es with
  | nil => rfl
  | cons e es ih =>
    obtain ⟨he, htail⟩ := List.ne_and_not_mem_of_not_mem_cons hes
    rw [Timers.afterAll, Timers.after_of_stopped h (Ne.symm he), ih htail]

/-- While Stopping and with no `start()` (R209): nothing has landed that ends the cycle, or the first such event was its end, or it was
the last tick. -/
theorem Timers.afterAll_of_stopping {es : List Event} (h : t.run = .stopping) (hes : .start ∉ es) :
    (t.afterAll es = t ∧ .tick ∉ es ∧ .settle ∉ es) ∨ t.afterAll es = { t with run := .stopped } ∨
      t.afterAll es = { t.tick with run := .stopped } := by
  induction es with
  | nil => exact .inl ⟨rfl, List.not_mem_nil, List.not_mem_nil⟩
  | cons e es ih =>
    obtain ⟨he, htail⟩ := List.ne_and_not_mem_of_not_mem_cons hes
    rw [Timers.afterAll]
    cases e with
    | start => exact absurd rfl he
    | stop =>
      rw [Timers.after_stop_of_not_running (by simp [h])]
      simpa using ih htail
    | tick =>
      rw [Timers.after_tick_of_stopping h]
      exact .inr (.inr (Timers.afterAll_of_stopped rfl htail))
    | settle =>
      rw [Timers.after_settle_of_stopping h]
      exact .inr (.inl (Timers.afterAll_of_stopped rfl htail))

end

end Sys2Proof.Machine

namespace Sys2Proof.Proofs
open Sys2Proof.Machine

/-- Settles O9: a step is never refused, and a call reports what its step answers. -/
theorem everyStepIsOkOrOneOfFourErrors : Obligations.EveryStepIsOkOrOneOfFourErrors := by
  intro s
  cases h : step s with
  | next t => exact .inl ⟨t, rfl, stepCall_of_step_next h⟩
  | fault f => exact .inr ⟨f, rfl, congrArg StepCall.error (stepCall_of_step_fault h), f.kind_cases⟩
  | refused r => exact absurd h (step_ne_refused s r)

/-- Settles O11: the fetch depends on pc and memory, and the instruction's own check on the registers, I and SP. -/
theorem anErrorRecursWhateverLandsBetween : Obligations.AnErrorRecursWhateverLandsBetween :=
  fun _ _ _ => step_fault_congr

/-- Settles O12, by cases on the ways to raise; an access that leaves memory reports an address outside it. -/
theorem onlyTheListedInstructionsRaise : Obligations.OnlyTheListedInstructionsRaise := by
  intro i s f h
  have hout : memSize ≤ max s.indexAddr memSize := le_max_right ..
  cases raises_of_exec_fault h with
  | ret hsp => exact .inl ⟨rfl, rfl, hsp⟩
  | call nnn hsp => exact .inr (.inl ⟨nnn, rfl, rfl, hsp⟩)
  | addIndex x hsum => exact .inr (.inr (.inl ⟨x, rfl, rfl, hsum⟩))
  | draw x y n => exact .inr (.inr (.inr ⟨_, rfl, hout, .inl ⟨x, y, n, rfl⟩⟩))
  | digits x => exact .inr (.inr (.inr ⟨_, rfl, hout, .inr (.inl ⟨x, rfl⟩)⟩))
  | store x => exact .inr (.inr (.inr ⟨_, rfl, hout, .inr (.inr (.inl ⟨x, rfl⟩))⟩))
  | load x => exact .inr (.inr (.inr ⟨_, rfl, hout, .inr (.inr (.inr ⟨x, rfl⟩))⟩))

/-- Settles O21, by induction on the number of ticks. -/
theorem ticksCountDownToZero : Obligations.TicksCountDownToZero :=
  fun n _ => Timers.afterAll_ticks n

/-- Settles O22, by induction on the events: while Stopped each of them but `start()` does nothing. -/
theorem noTickWhileStopped : Obligations.NoTickWhileStopped :=
  fun _ _ => Timers.afterAll_of_stopped

/-- Settles O23: after `stop()` the scheduler is Stopping, and the first tick or end of the cycle leaves it Stopped. -/
theorem atMostOneTickAfterStopAndStartResumes : Obligations.AtMostOneTickAfterStopAndStartResumes := by
  refine ⟨fun t es hrun hes => ⟨_, rfl, ?_⟩, fun _ => Timers.after_stop_of_not_running, fun _ => ⟨rfl, rfl, rfl⟩⟩
  rw [Timers.after_stop_of_running hrun]
  rcases Timers.afterAll_of_stopping (t := { t with run := .stopping }) rfl hes with ⟨h, htick, hsettle⟩ | h | h
  · rw [h]
    exact ⟨nofun, .inl ⟨rfl, rfl⟩, fun hend => (hend.elim htick hsettle).elim⟩
  · rw [h]
    exact ⟨nofun, .inl ⟨rfl, rfl⟩, fun _ => rfl⟩
  · rw [h]
    exact ⟨nofun, .inr ⟨rfl, rfl, rfl⟩, fun _ => rfl⟩

/-- Settles O20: each timer is counted down by natural subtraction, which is the clamp at 0. -/
theorem tickDecrementsBothTimersClampedAtZero : Obligations.TickDecrementsBothTimersClampedAtZero := by
  refine fun t => ⟨?_, ?_, rfl, Timers.after_tick_of_running⟩
  · rw [Timers.tick_dt_toNat]
    split <;> omega
  · rw [Timers.tick_st_toNat]
    split <;> omega

end Sys2Proof.Proofs
